-- ==== Sys2Proof/Word.lean ====
section
/-!
DEFINITION. The bit vectors of the block and their numeric reading (00_scope.md rules R18, R19, R21).

A bit vector is "a fixed-length ordered sequence of Bits with binary-string semantics", position 0 (the leading
bit) first.  The widths N, B, W, K are parameters of an instance of the block, so a vector is a list of bits that
carries its own width; concatenation is `++`, and the empty vector is `[]`.
-/

namespace Sys2Proof

/-- A bit vector, leading bit first (R18). Its width is its length. -/
abbrev Bits := List Bool

/-- `0^n` (R18). -/
def zeros (n : Nat) : Bits := List.replicate n false

/-- `1^n` (R18). -/
def ones (n : Nat) : Bits := List.replicate n true

/-- The unsigned magnitude of a vector (R19): the sum over i of `pos(v,i) * 2^(n-1-i)`. -/
def uint : Bits → Nat
  | [] => 0
  | b :: r => b.toNat * 2 ^ r.length + uint r

/-- `bv_n(x)`, the n-bit vector whose magnitude is `x`, for `x` below `2^n` (R19). -/
def bv : Nat → Nat → Bits
  | 0, _ => []
  | n + 1, x => (x / 2 ^ n % 2 == 1) :: bv n x

end Sys2Proof
end

