-- ==== Sys2Proof/Config.lean ====
section
/-!
DEFINITION. The parameters of an instance (00_scope.md section 3), the well-formedness of a configuration, and the
block's free values.

The parameters are "constants of the instance, readable by no command and writable by none" (R40).  The host's
interface has one `State` type and no argument for them, so an instance's `Config` stands in its `State`, where
nothing writes it (notes/assumptions/1.md); every statement quantifies over it.
-/

namespace Sys2Proof

/-- `VARIANT` (R8): the seven blocks. -/
inductive Variant where
  | GAg
  | GAs
  | PAg
  | PAp
  | SAg
  | SAp
  | SAs
  deriving DecidableEq, Repr

/-- `GAG_HIST_MODE` (R14): how GAg's `update` advances the global history register. It has no default. -/
inductive GagHistMode where
  | loadCounter
  | shiftOutcome
  deriving DecidableEq, Repr

/-- The `mode` argument of `count` (R13): `SATURATING`, or some mode the source does not describe. -/
inductive CountMode where
  | saturating
  | other (id : Nat)
  deriving DecidableEq, Repr

/-- The `mode` argument of `hash` (R13): XOR, or some mode the source does not describe. -/
inductive HashMode where
  | xor
  | other (id : Nat)
  deriving DecidableEq, Repr

/-- The parameters an instance is built from (R8 to R14). -/
structure Config where
  /-- `VARIANT` (R8). -/
  variant : Variant
  /-- N, `branchInstructionSize`: the width of an address (R9). -/
  n : Nat
  /-- B, `BHRSize`: the width of every history register (R10). -/
  b : Nat
  /-- W, `SCSize`: the width of every PHT block and of SC (R11). -/
  w : Nat
  /-- K: the width of a set id; not used by GAg, PAg, PAp (R12). -/
  k : Nat
  /-- `GAG_HIST_MODE` (R14); it has meaning only for GAg. -/
  gagHistMode : GagHistMode
  /-- The mode of `count` (R13). -/
  countMode : CountMode
  /-- The mode of `hash` (R13). -/
  hashMode : HashMode
  deriving DecidableEq, Repr

/-- Whether a variant folds the address, and so uses K (R12, R16). -/
def Variant.usesFold : Variant → Bool
  | .GAg | .PAg | .PAp => false
  | .GAs | .SAg | .SAp | .SAs => true

/-- Whether a variant has the one global history register `BHR` (R25). -/
def Variant.hasBhr : Variant → Bool
  | .GAg | .GAs => true
  | .PAg | .PAp | .SAg | .SAp | .SAs => false

/-- Whether a variant has the per-address history bank `PABHR` (R25). -/
def Variant.hasPabhr : Variant → Bool
  | .PAg | .PAp => true
  | .GAg | .GAs | .SAg | .SAp | .SAs => false

/-- Whether a variant has the per-set history bank `PSBHR` (R25). -/
def Variant.hasPsbhr : Variant → Bool
  | .SAg | .SAp | .SAs => true
  | .GAg | .GAs | .PAg | .PAp => false

/-- R16: when a configuration is well formed. -/
abbrev Config.wf (c : Config) : Prop :=
  1 ≤ c.n ∧ 1 ≤ c.b ∧ 1 ≤ c.w ∧ (c.variant.usesFold = true → 1 ≤ c.k) ∧
    c.countMode = .saturating ∧ c.hashMode = .xor ∧
    (c.variant = .GAg → c.gagHistMode = .loadCounter → c.b = c.w)

/-- `KEYW`, the width of a bank key; `none` where the variant has no bank (R15). -/
def Config.keyWidth (c : Config) : Option Nat :=
  match c.variant with
  | .GAg | .GAs => none
  | .PAg | .PAp => some c.n
  | .SAg | .SAp | .SAs => some c.k

/-- `IDXW`, the width of a PHT index (R15). -/
def Config.indexWidth (c : Config) : Nat :=
  match c.variant with
  | .GAg | .PAg | .SAg => c.b
  | .GAs | .SAs => c.k + c.b
  | .PAp | .SAp => c.n + c.b

/-- The configuration of `State.reset`: the one the source names, "GAg, BHRSize=2, SCSize=2" (S9 of
95_test_vectors.md). N, K and the history mode are the model's choice.
DESIGN CHOICE (unsafe for a claim that rests on these values; notes/assumptions/2.md). -/
def Config.initial : Config :=
  { variant := .GAg, n := 4, b := 2, w := 2, k := 2, gagHistMode := .loadCounter,
    countMode := .saturating, hashMode := .xor }

/-- FREE VALUE. What `SC` and `SC_addr` hold after construction or reset: "unspecified", and "must not be given a
value a proof can use" (R30, R31, R44). `draw` numbers the contents drawn, `width` is the register's width.
Safe (notes/assumptions/3.md). -/
opaque Config.unspecified (draw width : Nat) : BitVec width

end Sys2Proof
end

