-- ==== Sys2Proof/Syntax.lean ====
section
/-!
DEFINITION. The commands of the block (30_encoding.md): the command triple of R67 and the fourteen operations of
R75, one constructor per row of spec/opcode_table.json.
-/

namespace Sys2Proof

/-- `BranchResult` (R23): the outcome of a conditional branch, predicted or actual. -/
inductive BranchResult where
  | taken
  | notTaken
  deriving DecidableEq, Repr

/-- The field `op` of a command (R67, R69). -/
inductive Op where
  | predict
  | update
  deriving DecidableEq, Repr

/-- A command as the driver gives it (R67): `actual` is meaningful only for `UPDATE`. -/
structure Command where
  op : Op
  addr : Bits
  actual : BranchResult
  deriving DecidableEq, Repr

/-- The fourteen operations (R75): seven variants by two commands. The operand of `predict` is the branch
address; `update` has the actual outcome as well (R66). -/
inductive Instr where
  /-- `GAg.predict` (R115). -/
  | gagPredict (addr : Bits)
  /-- `GAg.update` (R134, R135, R136). -/
  | gagUpdate (addr : Bits) (actual : BranchResult)
  /-- `GAs.predict` (R116). -/
  | gasPredict (addr : Bits)
  /-- `GAs.update` (R137). -/
  | gasUpdate (addr : Bits) (actual : BranchResult)
  /-- `PAg.predict` (R117). -/
  | pagPredict (addr : Bits)
  /-- `PAg.update` (R138). -/
  | pagUpdate (addr : Bits) (actual : BranchResult)
  /-- `PAp.predict` (R118). -/
  | papPredict (addr : Bits)
  /-- `PAp.update` (R139). -/
  | papUpdate (addr : Bits) (actual : BranchResult)
  /-- `SAg.predict` (R119). -/
  | sagPredict (addr : Bits)
  /-- `SAg.update` (R140). -/
  | sagUpdate (addr : Bits) (actual : BranchResult)
  /-- `SAp.predict` (R120). -/
  | sapPredict (addr : Bits)
  /-- `SAp.update` (R141). -/
  | sapUpdate (addr : Bits) (actual : BranchResult)
  /-- `SAs.predict` (R121). -/
  | sasPredict (addr : Bits)
  /-- `SAs.update` (R142). -/
  | sasUpdate (addr : Bits) (actual : BranchResult)
  deriving DecidableEq, Repr

/-- The variant an operation belongs to (the `variant` field of its table row, R73). -/
def Instr.variant : Instr → Variant
  | .gagPredict _ => .GAg
  | .gagUpdate _ _ => .GAg
  | .gasPredict _ => .GAs
  | .gasUpdate _ _ => .GAs
  | .pagPredict _ => .PAg
  | .pagUpdate _ _ => .PAg
  | .papPredict _ => .PAp
  | .papUpdate _ _ => .PAp
  | .sagPredict _ => .SAg
  | .sagUpdate _ _ => .SAg
  | .sapPredict _ => .SAp
  | .sapUpdate _ _ => .SAp
  | .sasPredict _ => .SAs
  | .sasUpdate _ _ => .SAs

/-- Which of the two commands an operation is. -/
def Instr.op : Instr → Op
  | .gagPredict _ => .predict
  | .gagUpdate _ _ => .update
  | .gasPredict _ => .predict
  | .gasUpdate _ _ => .update
  | .pagPredict _ => .predict
  | .pagUpdate _ _ => .update
  | .papPredict _ => .predict
  | .papUpdate _ _ => .update
  | .sagPredict _ => .predict
  | .sagUpdate _ _ => .update
  | .sapPredict _ => .predict
  | .sapUpdate _ _ => .update
  | .sasPredict _ => .predict
  | .sasUpdate _ _ => .update

/-- The address operand. -/
def Instr.addr : Instr → Bits
  | .gagPredict a => a
  | .gagUpdate a _ => a
  | .gasPredict a => a
  | .gasUpdate a _ => a
  | .pagPredict a => a
  | .pagUpdate a _ => a
  | .papPredict a => a
  | .papUpdate a _ => a
  | .sagPredict a => a
  | .sagUpdate a _ => a
  | .sapPredict a => a
  | .sapUpdate a _ => a
  | .sasPredict a => a
  | .sasUpdate a _ => a

/-- The outcome operand; a `predict` has none (R66). -/
def Instr.actual : Instr → Option BranchResult
  | .gagPredict _ => none
  | .gagUpdate _ o => some o
  | .gasPredict _ => none
  | .gasUpdate _ o => some o
  | .pagPredict _ => none
  | .pagUpdate _ o => some o
  | .papPredict _ => none
  | .papUpdate _ o => some o
  | .sagPredict _ => none
  | .sagUpdate _ o => some o
  | .sapPredict _ => none
  | .sapUpdate _ o => some o
  | .sasPredict _ => none
  | .sasUpdate _ o => some o

end Sys2Proof
end

