-- ==== Sys2Proof/WellFormed.lean ====
section
/-!
DEFINITION. Which operations an instance of a given configuration has: those of its own variant (R3, R73), with an
address operand of exactly N bits (R9, R70).
-/

namespace Sys2Proof

/-- The operation is one of the instance's own variant (R73). -/
def Instr.ofVariant (c : Config) (i : Instr) : Bool := i.variant == c.variant

/-- The address operand has exactly N bits (R70). -/
def Instr.addrFits (c : Config) (i : Instr) : Bool := i.addr.length == c.n

/-- A well-formed operation of an instance built from `c`. -/
def Instr.wf (c : Config) (i : Instr) : Bool := i.ofVariant c && i.addrFits c

end Sys2Proof
end

