-- ==== Sys2Proof/Decode.lean ====
section
/-!
DEFINITION. The command word (30_encoding.md section 3): decoding it, encoding it, and reading it out of a word
numbered as spec/opcode_table.json numbers its bits.
-/

namespace Sys2Proof

/-- `bit(o)`: Taken is 1, NotTaken is 0 (R96). -/
def BranchResult.bit : BranchResult → Bool
  | .taken => true
  | .notTaken => false

/-- `of(bit)`: 1 is Taken, 0 is NotTaken (R96). -/
def BranchResult.of : Bool → BranchResult
  | true => .taken
  | false => .notTaken

/-- `isTaken(value)` (R96). -/
def BranchResult.isTaken : BranchResult → Bool
  | .taken => true
  | .notTaken => false

/-- The bit of the field `op`: 0 is `PREDICT`, 1 is `UPDATE` (R68, R69). -/
def Op.bit : Op → Bool
  | .predict => false
  | .update => true

/-- The command the bit of the field `op` stands for; both values are legal (R69). -/
def Op.ofBit : Bool → Op
  | false => .predict
  | true => .update

/-- The operation a command means on an instance of the given variant (R73, R75). -/
def Instr.ofCommand (v : Variant) (c : Command) : Instr :=
  match v, c.op with
  | .GAg, .predict => .gagPredict c.addr
  | .GAg, .update => .gagUpdate c.addr c.actual
  | .GAs, .predict => .gasPredict c.addr
  | .GAs, .update => .gasUpdate c.addr c.actual
  | .PAg, .predict => .pagPredict c.addr
  | .PAg, .update => .pagUpdate c.addr c.actual
  | .PAp, .predict => .papPredict c.addr
  | .PAp, .update => .papUpdate c.addr c.actual
  | .SAg, .predict => .sagPredict c.addr
  | .SAg, .update => .sagUpdate c.addr c.actual
  | .SAp, .predict => .sapPredict c.addr
  | .SAp, .update => .sapUpdate c.addr c.actual
  | .SAs, .predict => .sasPredict c.addr
  | .SAs, .update => .sasUpdate c.addr c.actual

/-- Why a sequence of bits is no command word of an instance. -/
inductive DecodeError where
  /-- Fewer than the two header bits `op` and `actual`; `found` is the number of bits. -/
  | noHeader (found : Nat)
  /-- The address field is not N bits (R70, R150); `found` is its width. -/
  | addrWidth (found : Nat)
  deriving DecidableEq, Repr

/-- The decoder of an instance (R68): position 0 is `op`, position 1 is `actual`, the rest is the address, which
must have N bits. Every word of N + 2 bits is a command (R76); `actual` is ignored by `PREDICT` (R71). -/
def decode (c : Config) (w : Bits) : Except DecodeError Instr :=
  match w with
  | op :: actual :: addr =>
    if addr.length = c.n then
      .ok (Instr.ofCommand c.variant
        { op := Op.ofBit op, addr := addr, actual := BranchResult.of actual })
    else .error (.addrWidth addr.length)
  | [] => .error (.noHeader 0)
  | [_] => .error (.noHeader 1)

/-- The command word of an operation (R68). The bit `actual` of a `PREDICT`, which the block ignores (R71), is
written as 0. -/
def encode : Instr → Bits
  | .gagPredict a => false :: false :: a
  | .gagUpdate a o => true :: o.bit :: a
  | .gasPredict a => false :: false :: a
  | .gasUpdate a o => true :: o.bit :: a
  | .pagPredict a => false :: false :: a
  | .pagUpdate a o => true :: o.bit :: a
  | .papPredict a => false :: false :: a
  | .papUpdate a o => true :: o.bit :: a
  | .sagPredict a => false :: false :: a
  | .sagUpdate a o => true :: o.bit :: a
  | .sapPredict a => false :: false :: a
  | .sapUpdate a o => true :: o.bit :: a
  | .sasPredict a => false :: false :: a
  | .sasUpdate a o => true :: o.bit :: a

/-- R69: the mask of every row of the opcode table, over the header `op ‖ actual` read as a 2-bit number. -/
def headerMask : Nat := 0b10

/-- R69: the match value of a row over the same header. -/
def Instr.headerMatch (i : Instr) : Nat :=
  match i.op with
  | .predict => 0b00
  | .update => 0b10

/-- The header `op ‖ actual` of a command word as a 2-bit number, `op` the more significant (R69). -/
def headerOf (w : Bits) : Nat := uint (w.take 2)

/-- The pseudo-command `branch <addr> <T|N>`: a `predict`, then an `update` of the same address (R79). -/
def branch (v : Variant) (a : Bits) (o : BranchResult) : List Instr :=
  [Instr.ofCommand v { op := .predict, addr := a, actual := o },
    Instr.ofCommand v { op := .update, addr := a, actual := o }]

/-- The command word for a word numbered as spec/opcode_table.json numbers bits: the table matches the 2-bit
header, so bit 1 is `op` and bit 0 is `actual`; the address, to which the table gives no bits, is taken from bit 2
up, and what is left of the last byte is no part of the word.
DESIGN CHOICE, safe (notes/assumptions/9.md). -/
def tableWord (c : Config) (nbits w : Nat) : Bits :=
  let x := w % 2 ^ nbits
  (x / 2 % 2 == 1) :: (x % 2 == 1) :: bv c.n (x / 4)

/-- What the decoder reads from a word of the opcode table, on the instance of `State.reset` (`Config.initial`):
the variant is not in the word (R73), so every `predict` row of the table has one word, and every `update` row
another. -/
def decodeTableWord (nbits w : Nat) : Option Instr :=
  if nbits < 2 then none
  else (decode Config.initial (tableWord Config.initial nbits w)).toOption

end Sys2Proof
end

