-- ==== Sys2Proof/Machine/State.lean ====
section
/-!
DEFINITION. The state of an instance (10_state.md), the refusals, and the state after construction.
-/

namespace Sys2Proof.Machine

/-- A storage space of the block (20_memory.md R47): the lazily populated map from a key to a value, kept as the
list of its present keys with their values. The canonical form is: keys strictly rising (`Memory.wf`, Machine/Ops.lean).
A key that is not listed is absent, and `get` of it has no value (R52), so no entry equals what an unlisted key reads
as. The presence sets `PHT_present` and `BANK_present` (R32) are the keys listed. -/
abbrev Memory := List (Bits × Bits)

/-- The clauses of R16, for the report of `ConfigIllFormed` ("which clause failed", R148). -/
inductive ConfigClause where
  /-- N is 0. -/
  | addrWidth
  /-- B is 0. -/
  | historyWidth
  /-- W is 0. -/
  | counterWidth
  /-- K is 0 where the variant uses it. -/
  | foldWidth
  /-- B differs from W for GAg in `LOAD_COUNTER` mode. -/
  | loadWidth
  deriving DecidableEq, Repr

/-- A mode that the block does not support (R13, R152). -/
inductive Mode where
  | count (m : CountMode)
  | hash (m : HashMode)
  deriving DecidableEq, Repr

/-- The block has no traps (60_exceptions.md): nothing it does ends in a fault, so this type has no constructor. -/
inductive Fault where
  deriving DecidableEq, Repr

/-- Why a command or a construction is refused (60_exceptions.md R148), and the model's own refusals. A refusal ends
the run being judged (R158) and changes no state (R147). -/
inductive Refusal where
  /-- `exec`'s arm of an operation that has no meaning yet. Safe. No arm of this model raises it. -/
  | notModelled (mnemonic : String)
  /-- `ConfigIllFormed`, raised by construction; reports the clause that failed (R149). Safe. -/
  | configIllFormed (clause : ConfigClause)
  /-- `UnsupportedMode`, raised by construction; reports the mode (R152). Safe. -/
  | unsupportedMode (mode : Mode)
  /-- `OperandWidth`, raised by every operation, and by `step` for a command word whose address field is not N bits;
  reports the width found (R150). Safe. -/
  | operandWidth (found : Nat)
  /-- `ProtocolViolation`, raised by every `update` that does not match the pending `predict`; reports the operand
  address (R131, R151). Safe: the source leaves the result undefined. -/
  | protocolViolation (addr : Bits)
  /-- The model's own: an operation of another variant, which the instance does not have (R3, R73). No decoded word
  raises it. Safe (notes/assumptions/6.md). -/
  | noSuchOperation (asked : Variant)
  /-- The model's own: a command word that lacks the two header bits, raised by `step`. No word of R68 raises it.
  Safe (notes/assumptions/8.md). -/
  | malformedWord (found : Nat)
  /-- The model's own: `get` of an absent key, to which the spec gives no value (R52). No state raises it, because
  every `get` follows a `putIfAbsent` of the same key. Safe (notes/assumptions/7.md). -/
  | absentKey (key : Bits)
  deriving DecidableEq, Repr

/-- The response to a command (R67, R72). -/
inductive Response where
  /-- To an accepted `predict`: the predicted outcome. -/
  | predicted (o : BranchResult)
  /-- To an accepted `update`: it carries no data. -/
  | updated
  /-- To a refused command: the refusal cause. -/
  | refused (cause : Refusal)
  deriving DecidableEq, Repr

/-- What the driver can do to the block: issue a command word (R67, R68) or assert the reset input (R168). -/
inductive Input where
  | command (word : Bits)
  | reset
  deriving DecidableEq, Repr

/-- An instance of the block and the driver's two channels.

The spec's elements are `bhr` to `scAddr` (R25 to R32); `PHT_present` and `BANK_present` are the keys of `pht` and of
the bank. An element that the variant lacks (R25) keeps its reset value, and no operation of the variant touches it.
`cfg` is the instance's configuration, which nothing writes (R17). `input`, `responses` and `draws` are the model's
own: the driver's commands, the responses it has seen (R181), and the number of the next free value. -/
structure State where
  /-- The configuration of the instance (R8 to R14). -/
  cfg : Config
  /-- `BHR`, the global history register (R26); GAg and GAs. -/
  bhr : Bits
  /-- `PABHR`, the history bank keyed by the raw address (R27); PAg and PAp. -/
  pabhr : Memory
  /-- `PSBHR`, the history bank keyed by the set id (R28); SAg, SAp and SAs. -/
  psbhr : Memory
  /-- `PHT`, the pattern history table (R29). -/
  pht : Memory
  /-- `SC`, the transient counter register (R30). -/
  sc : Bits
  /-- `SC_valid` (R31). -/
  scValid : Bool
  /-- `SC_addr` (R31). -/
  scAddr : Bits
  /-- The driver's inputs that the block has not taken yet, next first. -/
  input : List Input
  /-- The responses given so far, oldest first. -/
  responses : List Response
  /-- How many free values `Config.unspecified` has supplied. -/
  draws : Nat
  deriving DecidableEq, Repr

/-- What one command answers. -/
abbrev Result := Host.Outcome State Fault Refusal

/-- The state right after construction or reset (R41, R167), with the content of `SC` and of `SC_addr` drawn from
the free values from number `d` on. -/
def State.resetOf (c : Config) (d : Nat) : State :=
  { cfg := c
    bhr := zeros c.b
    pabhr := []
    psbhr := []
    pht := []
    sc := bv c.w (Config.unspecified d c.w).toNat
    scValid := false
    scAddr := bv c.n (Config.unspecified (d + 1) c.n).toNat
    input := []
    responses := []
    draws := d + 2 }

/-- The machine right after reset, with the configuration `Config.initial`. -/
def State.reset : State := State.resetOf Config.initial 0

end Sys2Proof.Machine
end

