-- ==== Sys2Proof/Machine/Ops.lean ====
section
/-!
DEFINITION. The named operations over the block's storage spaces (20_memory.md), over its registers
(40_combinational.md section 3) and over its protocol state, the refusal of a command and what follows one
(60_exceptions.md), the reset input (70_reset_and_hazards.md) and the diagnostic snapshot.
-/

namespace Sys2Proof.Machine

/-! ## Storage spaces -/

/-- The order in which the keys of a storage space are listed: lexicographic, leading bit first. On keys of one width
it is the order of their magnitudes. -/
def keyLt : Bits → Bits → Bool
  | _, [] => false
  | [], _ :: _ => true
  | a :: x, b :: y => (!a && b) || (a == b && keyLt x y)

/-- The canonical form of a storage space: keys strictly rising. -/
abbrev Memory.wf (m : Memory) : Prop := m.Pairwise (fun e f => keyLt e.1 f.1 = true)

/-- `get(key)` (R49): the value stored under `key`; nothing for an absent key (R52). -/
def Memory.get : Memory → Bits → Option Bits
  | [], _ => none
  | (k, v) :: m, q => if k = q then some v else Memory.get m q

/-- `put(key, value)` (R50): the value is stored under the key, whatever was there. -/
def Memory.put : Memory → Bits → Bits → Memory
  | [], k, v => [(k, v)]
  | (k', v') :: m, k, v =>
    if k = k' then (k, v) :: m
    else if keyLt k k' then (k, v) :: (k', v') :: m
    else (k', v') :: Memory.put m k v

/-- Whether a key is present (R32). -/
def Memory.present (m : Memory) (k : Bits) : Bool := (m.get k).isSome

/-- `putIfAbsent(key, value)` (R51): no effect if the key is present. -/
def Memory.putIfAbsent (m : Memory) (k v : Bits) : Memory :=
  if m.present k then m else m.put k v

/-- The bank's `read(key)` (R53): the register under the key, which is created with the default content first if it is
absent. -/
def Memory.readCreate (dflt : Bits) (m : Memory) (k : Bits) : Bits × Memory :=
  match m.get k with
  | some v => (v, m)
  | none => (dflt, m.put k dflt)

/-- The total view (R33): the stored value if the key is present, else the default. -/
def Memory.total (dflt : Bits) (m : Memory) (k : Bits) : Bits := (m.get k).getD dflt

/-- The keys present (R32): `PHT_present`, `BANK_present`. -/
def Memory.keys (m : Memory) : List Bits := m.map Prod.fst

/-! ## Registers and spaces of the state -/

/-- A full overwrite of `BHR` (`load`, R94). -/
def State.setBhr (s : State) (v : Bits) : State := { s with bhr := v }

/-- Replace the per-address bank. -/
def State.setPabhr (s : State) (m : Memory) : State := { s with pabhr := m }

/-- Replace the per-set bank. -/
def State.setPsbhr (s : State) (m : Memory) : State := { s with psbhr := m }

/-- Replace the pattern history table. -/
def State.setPht (s : State) (m : Memory) : State := { s with pht := m }

/-- `SC <- c ; SC_valid <- 1 ; SC_addr <- a` (R114 step 4, R31). -/
def State.loadSC (s : State) (a c : Bits) : State :=
  { s with sc := c, scValid := true, scAddr := a }

/-- `SC_valid <- 0` (R132): `SC` and `SC_addr` keep their contents. -/
def State.consumeSC (s : State) : State := { s with scValid := false }

/-- Give the driver a response (R67). -/
def State.respond (s : State) (r : Response) : State :=
  { s with responses := s.responses ++ [r] }

/-- Take the driver's next input off its channel. -/
def State.dropInput (s : State) : State := { s with input := s.input.tail }

/-- The default content of a PHT block, `0^W` (R29). -/
def State.phtDefault (s : State) : Bits := zeros s.cfg.w

/-- The default content of a bank register, `0^B` (R27, R28). -/
def State.bankDefault (s : State) : Bits := zeros s.cfg.b

/-- `PABHR[k]` (R53): the register's content, and the state after its lazy creation. -/
def State.pabhrRead (s : State) (k : Bits) : Bits × State :=
  let r := s.pabhr.readCreate s.bankDefault k
  (r.1, s.setPabhr r.2)

/-- `PABHR[k] <- v` (R54). -/
def State.pabhrWrite (s : State) (k v : Bits) : State := s.setPabhr (s.pabhr.put k v)

/-- `PSBHR[k]` (R53): the register's content, and the state after its lazy creation. -/
def State.psbhrRead (s : State) (k : Bits) : Bits × State :=
  let r := s.psbhr.readCreate s.bankDefault k
  (r.1, s.setPsbhr r.2)

/-- `PSBHR[k] <- v` (R54). -/
def State.psbhrWrite (s : State) (k v : Bits) : State := s.setPsbhr (s.psbhr.put k v)

/-- `MemRead(PHT, i)` (R49). -/
def State.phtGet (s : State) (i : Bits) : Option Bits := s.pht.get i

/-- `MemWrite(PHT, i, v)` (R50). -/
def State.phtPut (s : State) (i v : Bits) : State := s.setPht (s.pht.put i v)

/-- `PHT.putIfAbsent(i, v)` (R51). -/
def State.phtPutIfAbsent (s : State) (i v : Bits) : State := s.setPht (s.pht.putIfAbsent i v)

/-! ## The total view (R33) -/

/-- `PHT_t[i]`. -/
def State.phtT (s : State) (i : Bits) : Bits := s.pht.total s.phtDefault i

/-- `BANK_t[k]` of the per-address bank. -/
def State.pabhrT (s : State) (k : Bits) : Bits := s.pabhr.total s.bankDefault k

/-- `BANK_t[k]` of the per-set bank. -/
def State.psbhrT (s : State) (k : Bits) : Bits := s.psbhr.total s.bankDefault k

/-! ## Refusing a command, and what follows -/

/-- `raise <Cause>(info)` (R22, R147): the command is refused with that cause, before any step of it has run. -/
def refuse (cause : Refusal) : Result := .refused cause

/-- After a refusal (R147, R158): the cause is the response, no element of the block changes, and the block is ready
for the driver's next input. -/
def State.afterRefusal (s : State) (cause : Refusal) : State :=
  s.dropInput.respond (.refused cause)

/-- The boundary checks of every command, before any step of it runs (R147): the instance has the operation (R73),
and the address operand has N bits (R150). -/
def onOperand (v : Variant) (a : Bits) (s : State) (body : Result) : Result :=
  if s.cfg.variant ≠ v then refuse (.noSuchOperation v)
  else if a.length ≠ s.cfg.n then refuse (.operandWidth a.length)
  else body

/-- The acceptance check of `update` (R131), made after the width check (R156). -/
def onMatch (a : Bits) (s : State) (body : Result) : Result :=
  if s.scValid = true ∧ s.scAddr = a then body else refuse (.protocolViolation a)

/-! ## Reset input and snapshot -/

/-- The reset input (R168): every element is put into its state of R167, and the configuration stays. The driver's
channels are not the block's: they keep their contents. -/
def State.resetInput (s : State) : State :=
  { State.resetOf s.cfg s.draws with input := s.input, responses := s.responses }

/-- The registers and tables that `monitor()` shows (R164). The source does not give its format.
DESIGN CHOICE, safe (notes/assumptions/11.md). -/
structure Snapshot where
  bhr : Bits
  pabhr : Memory
  psbhr : Memory
  pht : Memory
  sc : Bits
  deriving DecidableEq, Repr

/-- `monitor()` (R164): a pure function of the state, which has no effect. -/
def State.monitor (s : State) : Snapshot :=
  { bhr := s.bhr, pabhr := s.pabhr, psbhr := s.psbhr, pht := s.pht, sc := s.sc }

end Sys2Proof.Machine
end

