-- ==== Sys2Proof/Machine/Construct.lean ====
section
/-!
DEFINITION. Construction (60_exceptions.md R149, R152; 70_reset_and_hazards.md R166): an instance comes into being
from a well-formed configuration, in its reset state; any other configuration is refused.
-/

namespace Sys2Proof.Machine

/-- The mode of the configuration that the block does not support, if there is one (R152); `count`'s is looked at
first. -/
def unsupported (c : Config) : Option Mode :=
  if c.countMode ≠ .saturating then some (.count c.countMode)
  else if c.hashMode ≠ .xor then some (.hash c.hashMode)
  else none

/-- The first clause of R16 that the configuration fails, in the order in which R16 lists them. -/
def failedClause (c : Config) : Option ConfigClause :=
  if c.n = 0 then some .addrWidth
  else if c.b = 0 then some .historyWidth
  else if c.w = 0 then some .counterWidth
  else if c.variant.usesFold = true ∧ c.k = 0 then some .foldWidth
  else if c.variant = .GAg ∧ c.gagHistMode = .loadCounter ∧ c.b ≠ c.w then some .loadWidth
  else none

/-- Construction (R166): `UnsupportedMode` is reported before `ConfigIllFormed` (R156). -/
def construct (c : Config) : Result :=
  match unsupported c with
  | some m => refuse (.unsupportedMode m)
  | none =>
    match failedClause c with
    | some p => refuse (.configIllFormed p)
    | none => .next (State.resetOf c 0)

end Sys2Proof.Machine
end

