-- ==== Sys2Proof/Machine/Operands.lean ====
section
/-!
DEFINITION. What the block assembles from its operands: the fold of the address (40_combinational.md section 2), the
shift-in of an outcome (section 3), and the bank key, the history register and the PHT index that serve an address
(41_indexing.md section 2).
-/

namespace Sys2Proof.Machine

/-- `pos(v, i)`, the element of `v` at position `i`, counted from the leading end (R18), for `i` below the width. -/
def pos (v : Bits) (i : Nat) : Bool := v.getD i false

/-- `pos(v, j) = pos(v, j) XOR b`, with the other positions as they are (R88). -/
def xorAt : Bits → Nat → Bool → Bits
  | [], _, _ => []
  | x :: r, 0, b => Bool.xor x b :: r
  | x :: r, j + 1, b => x :: xorAt r j b

/-- The loop of `hash` from input position `i` on (R88): each bit is XORed into position `i mod K`. -/
def hashLoop (k : Nat) : Nat → Bits → Bits → Bits
  | _, [], out => out
  | i, b :: r, out => hashLoop k (i + 1) r (xorAt out (i % k) b)

/-- `hash_K(a)` in XOR mode (R88). -/
def hashK (k : Nat) (a : Bits) : Bits := hashLoop k 0 a (zeros k)

/-- `shl1(r, b)` (R92): the leading bit is dropped and `b` becomes the trailing bit. -/
def shl1 (r : Bits) (b : Bool) : Bits := (r ++ [b]).drop 1

/-- `hrKey(a)`, the bank key for an address; `none` where the variant has no bank (R99). -/
def hrKey (c : Config) (a : Bits) : Option Bits :=
  match c.variant with
  | .GAg | .GAs => none
  | .PAg | .PAp => some a
  | .SAg | .SAp | .SAs => some (hashK c.k a)

/-- `prefix(a)`, the address part of the PHT key (R100). -/
def keyPart (c : Config) (a : Bits) : Bits :=
  match c.variant with
  | .GAg | .PAg | .SAg => []
  | .GAs | .SAs => hashK c.k a
  | .PAp | .SAp => a

/-- `HR_t(a)`, the content of the history register that serves an address, in the total view (R99, R126). -/
def State.hr (s : State) (a : Bits) : Bits :=
  match s.cfg.variant with
  | .GAg | .GAs => s.bhr
  | .PAg | .PAp => s.pabhrT a
  | .SAg | .SAp | .SAs => s.psbhrT (hashK s.cfg.k a)

/-- `HR(a)` with lazy creation (R99): the content, and the state after the bank read. -/
def State.hrRead (s : State) (a : Bits) : Bits × State :=
  match s.cfg.variant with
  | .GAg | .GAs => (s.bhr, s)
  | .PAg | .PAp => s.pabhrRead a
  | .SAg | .SAp | .SAs => s.psbhrRead (hashK s.cfg.k a)

/-- The write of the history register that serves an address (R129 steps 4 and 5). -/
def State.hrWrite (s : State) (a v : Bits) : State :=
  match s.cfg.variant with
  | .GAg | .GAs => s.setBhr v
  | .PAg | .PAp => s.pabhrWrite a v
  | .SAg | .SAp | .SAs => s.psbhrWrite (hashK s.cfg.k a) v

/-- `index(a) = prefix(a) ‖ HR(a)` (R101), in the total view. -/
def State.index (s : State) (a : Bits) : Bits := keyPart s.cfg a ++ s.hr a

end Sys2Proof.Machine
end

