-- ==== Sys2Proof/Machine/Flags.lean ====
section
/-!
DEFINITION. The saturating counter and the prediction bit (40_combinational.md section 1). The block has no condition
codes (10_state.md R38): the one flag-like result it computes is the prediction bit.
-/

namespace Sys2Proof.Machine

/-- `count(c, t)` in `SATURATING` mode (R82): one step up or down over the integers, then clamped. -/
def count (c : Bits) (t : Bool) : Bits :=
  let x := uint c
  bv c.length (if t then min (x + 1) (2 ^ c.length - 1) else x - 1)

/-- The prediction a block gives: Taken if its leading bit is 1, else NotTaken (R85, R114 step 5). -/
def predictionOf (c : Bits) : BranchResult := BranchResult.of (pos c 0)

end Sys2Proof.Machine
end

