-- ==== Sys2Proof/Machine/Predict.lean ====
section
/-!
DEFINITION. The meaning of the seven `predict` operations (42_predict.md section 3), over one shared operation for
steps 3 to 6 of the algorithm (R114).
-/

namespace Sys2Proof.Machine

/-- Steps 3 to 6 of `predict` (R114) at the index `idx` of the address `a`: insert the default if the entry is
absent, load the block into `SC`, write the history register back (`writeBack`; nothing for a global register), and
answer with the leading bit. -/
def predictAt (a idx : Bits) (writeBack : State → State) (s : State) : Result :=
  let s1 := s.phtPutIfAbsent idx s.phtDefault
  match s1.phtGet idx with
  | none => refuse (.absentKey idx)
  | some c => .next ((writeBack (s1.loadSC a c)).respond (.predicted (predictionOf c)))

/-- `GAg.predict(a)` (R115). -/
def execGagPredict (a : Bits) (s : State) : Result :=
  onOperand .GAg a s (predictAt a s.bhr id s)

/-- `GAs.predict(a)` (R116). -/
def execGasPredict (a : Bits) (s : State) : Result :=
  onOperand .GAs a s (predictAt a (hashK s.cfg.k a ++ s.bhr) id s)

/-- `PAg.predict(a)` (R117). -/
def execPagPredict (a : Bits) (s : State) : Result :=
  let h := s.pabhrRead a
  onOperand .PAg a s (predictAt a h.1 (fun t => t.pabhrWrite a h.1) h.2)

/-- `PAp.predict(a)` (R118). -/
def execPapPredict (a : Bits) (s : State) : Result :=
  let h := s.pabhrRead a
  onOperand .PAp a s (predictAt a (a ++ h.1) (fun t => t.pabhrWrite a h.1) h.2)

/-- `SAg.predict(a)` (R119). -/
def execSagPredict (a : Bits) (s : State) : Result :=
  let k := hashK s.cfg.k a
  let h := s.psbhrRead k
  onOperand .SAg a s (predictAt a h.1 (fun t => t.psbhrWrite k h.1) h.2)

/-- `SAp.predict(a)` (R120): the register is read and written back under the one set id (R107). -/
def execSapPredict (a : Bits) (s : State) : Result :=
  let k := hashK s.cfg.k a
  let h := s.psbhrRead k
  onOperand .SAp a s (predictAt a (a ++ h.1) (fun t => t.psbhrWrite k h.1) h.2)

/-- `SAs.predict(a)` (R121). -/
def execSasPredict (a : Bits) (s : State) : Result :=
  let k := hashK s.cfg.k a
  let h := s.psbhrRead k
  onOperand .SAs a s (predictAt a (k ++ h.1) (fun t => t.psbhrWrite k h.1) h.2)

end Sys2Proof.Machine
end

