-- ==== Sys2Proof/Machine/Update.lean ====
section
/-!
DEFINITION. The meaning of the seven `update` operations (43_update.md section 3), over one shared operation for the
steps that every variant has (R129).
-/

namespace Sys2Proof.Machine

/-- Steps 1 and 3 to 5 of `update` (R129) at the index `idx`: count from `SC`, write the counter into the table,
advance the history register (`advance`, given `counted`), and end the validity of `SC` (R132). -/
def updateAt (o : BranchResult) (idx : Bits) (advance : Bits → State → State) (s : State) : Result :=
  let counted := count s.sc o.isTaken
  .next ((advance counted (s.phtPut idx counted)).consumeSC.respond .updated)

/-- The history step of `GAg.update` (R135, R136), by `GAG_HIST_MODE`: load the counter, or shift in the outcome. -/
def gagAdvance (o : BranchResult) (counted : Bits) (s : State) : State :=
  match s.cfg.gagHistMode with
  | .loadCounter => s.setBhr counted
  | .shiftOutcome => s.setBhr (shl1 s.bhr o.bit)

/-- `GAg.update(a, o)` (R134). -/
def execGagUpdate (a : Bits) (o : BranchResult) (s : State) : Result :=
  onOperand .GAg a s (onMatch a s (updateAt o s.bhr (gagAdvance o) s))

/-- `GAs.update(a, o)` (R137). -/
def execGasUpdate (a : Bits) (o : BranchResult) (s : State) : Result :=
  onOperand .GAs a s (onMatch a s
    (updateAt o (hashK s.cfg.k a ++ s.bhr) (fun _ t => t.setBhr (shl1 s.bhr o.bit)) s))

/-- `PAg.update(a, o)` (R138). -/
def execPagUpdate (a : Bits) (o : BranchResult) (s : State) : Result :=
  let h := s.pabhrRead a
  onOperand .PAg a s (onMatch a s
    (updateAt o h.1 (fun _ t => t.pabhrWrite a (shl1 h.1 o.bit)) h.2))

/-- `PAp.update(a, o)` (R139). -/
def execPapUpdate (a : Bits) (o : BranchResult) (s : State) : Result :=
  let h := s.pabhrRead a
  onOperand .PAp a s (onMatch a s
    (updateAt o (a ++ h.1) (fun _ t => t.pabhrWrite a (shl1 h.1 o.bit)) h.2))

/-- `SAg.update(a, o)` (R140). -/
def execSagUpdate (a : Bits) (o : BranchResult) (s : State) : Result :=
  let k := hashK s.cfg.k a
  let h := s.psbhrRead k
  onOperand .SAg a s (onMatch a s
    (updateAt o h.1 (fun _ t => t.psbhrWrite k (shl1 h.1 o.bit)) h.2))

/-- `SAp.update(a, o)` (R141): the register is read and written back under the one set id (R107). -/
def execSapUpdate (a : Bits) (o : BranchResult) (s : State) : Result :=
  let k := hashK s.cfg.k a
  let h := s.psbhrRead k
  onOperand .SAp a s (onMatch a s
    (updateAt o (a ++ h.1) (fun _ t => t.psbhrWrite k (shl1 h.1 o.bit)) h.2))

/-- `SAs.update(a, o)` (R142). -/
def execSasUpdate (a : Bits) (o : BranchResult) (s : State) : Result :=
  let k := hashK s.cfg.k a
  let h := s.psbhrRead k
  onOperand .SAs a s (onMatch a s
    (updateAt o (k ++ h.1) (fun _ t => t.psbhrWrite k (shl1 h.1 o.bit)) h.2))

end Sys2Proof.Machine
end

