-- ==== Sys2Proof/Machine/Dispatch.lean ====
section
/-! DEFINITION. `exec`: one arm per operation of spec/opcode_table.json. -/

namespace Sys2Proof.Machine

def exec (i : Instr) (s : State) : Host.Outcome State Fault Refusal :=
  match i with
  | .gagPredict a => Sys2Proof.Machine.execGagPredict a s
  | .gagUpdate a o => Sys2Proof.Machine.execGagUpdate a o s
  | .gasPredict a => Sys2Proof.Machine.execGasPredict a s
  | .gasUpdate a o => Sys2Proof.Machine.execGasUpdate a o s
  | .pagPredict a => Sys2Proof.Machine.execPagPredict a s
  | .pagUpdate a o => Sys2Proof.Machine.execPagUpdate a o s
  | .papPredict a => Sys2Proof.Machine.execPapPredict a s
  | .papUpdate a o => Sys2Proof.Machine.execPapUpdate a o s
  | .sagPredict a => Sys2Proof.Machine.execSagPredict a s
  | .sagUpdate a o => Sys2Proof.Machine.execSagUpdate a o s
  | .sapPredict a => Sys2Proof.Machine.execSapPredict a s
  | .sapUpdate a o => Sys2Proof.Machine.execSapUpdate a o s
  | .sasPredict a => Sys2Proof.Machine.execSasPredict a s
  | .sasUpdate a o => Sys2Proof.Machine.execSasUpdate a o s

end Sys2Proof.Machine
end

