-- ==== Sys2Proof/Machine/Fetch.lean ====
section
/-!
DEFINITION. How a command reaches the block. The block fetches nothing (30_encoding.md R65): the driver puts a command
word on the command channel (R67), and the block takes the next one when it has finished the one before.
-/

namespace Sys2Proof.Machine

/-- The refusal of a word that is no command word of the instance (R150). -/
def ofDecodeError : DecodeError → Refusal
  | .noHeader found => .malformedWord found
  | .addrWidth found => .operandWidth found

/-- The driver issues a command word as its next input. -/
def State.issue (s : State) (w : Bits) : State := { s with input := .command w :: s.input }

end Sys2Proof.Machine
end

