-- ==== Sys2Proof/Machine/Generic.lean ====
section
/-!
DEFINITION. The generic algorithms of the two commands (42_predict.md R114, 43_update.md R129), written once for every
variant over `hrKey`, `HR`, `prefix` and `index` of 41_indexing.md. The meanings of the operations are written from the
rules of each variant; that the two agree is a statement of Certificates/Slice0/Obligations.lean.
-/

namespace Sys2Proof.Machine

/-- `predict(a)` for the variant of the instance (R114). -/
def genericPredict (a : Bits) (s : State) : Result :=
  let h := s.hrRead a
  let idx := keyPart s.cfg a ++ h.1
  predictAt a idx (fun t => if (hrKey s.cfg a).isSome then t.hrWrite a h.1 else t) h.2

/-- The history register after `update` (R129 step 4): the outcome is shifted in, but for GAg in `LOAD_COUNTER`
mode, which loads the counter. -/
def advanced (c : Config) (h counted : Bits) (o : BranchResult) : Bits :=
  if c.variant = .GAg ∧ c.gagHistMode = .loadCounter then counted else shl1 h o.bit

/-- `update(a, o)` for the variant of the instance (R129). -/
def genericUpdate (a : Bits) (o : BranchResult) (s : State) : Result :=
  onMatch a s
    (let h := s.hrRead a
     let idx := keyPart s.cfg a ++ h.1
     updateAt o idx (fun counted t => t.hrWrite a (advanced s.cfg h.1 counted o)) h.2)

end Sys2Proof.Machine
end

