-- ==== Sys2Proof/Machine/Step.lean ====
section
/-!
DEFINITION. One step of the block: it takes the driver's next input and finishes it, response included (R67).
-/

namespace Sys2Proof.Machine

/-- One step. A command word is decoded and executed with the word taken off the channel; the reset input is R168;
with no input the block does nothing, since it "executes nothing on its own" (R167).
DESIGN CHOICE for the last, safe (notes/assumptions/5.md). -/
def step (s : State) : Host.Outcome State Fault Refusal :=
  match s.input with
  | [] => .next s
  | .reset :: _ => .next s.dropInput.resetInput
  | .command w :: _ =>
    match decode s.cfg w with
    | .ok i => exec i s.dropInput
    | .error e => refuse (ofDecodeError e)

/-- The block across a refusal: as `step`, but where the command is refused the driver gets the cause and the block
goes on with its state as it was (R147, R158). A claim about a run is judged by `step`, for which a refusal ends the
run (R158); this function says what the hardware does next. -/
def serve (s : State) : State :=
  match step s with
  | .next t => t
  | .refused cause => s.afterRefusal cause
  | .fault f => nomatch f

/-- `s` with the command of a word of the opcode table (`tableWord`) as the driver's next input. -/
def State.withFetchWord (s : State) (nbits w : Nat) : State := s.issue (tableWord s.cfg nbits w)

end Sys2Proof.Machine
end

