-- ==== Sys2Proof/Safety.lean ====
section
/-!
DEFINITION. What statements about runs are written in: the invariant of an instance, runs of commands, and the command
sequences that are legal (70_reset_and_hazards.md section 3).
-/

namespace Sys2Proof.Machine

/-- A storage space in canonical form in which every key has `kw` bits and every value `vw` bits (R35). -/
abbrev Memory.sized (kw vw : Nat) (m : Memory) : Prop :=
  m.wf ∧ ∀ e ∈ m, e.1.length = kw ∧ e.2.length = vw

/-- The invariant of an instance: the configuration is well formed (R16), every stored vector and every key has its
width (R35), the spaces are in canonical form, an element the variant lacks keeps its reset value (R25), and while
`SC_valid` is 1 the block in `SC` is the one the table holds at the index of `SC_addr` (R144). -/
structure State.Inv (s : State) : Prop where
  cfg_wf : s.cfg.wf
  bhr_width : s.bhr.length = s.cfg.b
  pabhr_sized : s.pabhr.sized s.cfg.n s.cfg.b
  psbhr_sized : s.psbhr.sized s.cfg.k s.cfg.b
  pht_sized : s.pht.sized s.cfg.indexWidth s.cfg.w
  sc_width : s.sc.length = s.cfg.w
  scAddr_width : s.scAddr.length = s.cfg.n
  bhr_absent : s.cfg.variant.hasBhr = false → s.bhr = zeros s.cfg.b
  pabhr_absent : s.cfg.variant.hasPabhr = false → s.pabhr = []
  psbhr_absent : s.cfg.variant.hasPsbhr = false → s.psbhr = []
  pending_block : s.scValid = true → s.pht.get (s.index s.scAddr) = some s.sc

/-- The commands one after another, stopping at the first that is not accepted (R158, R181). -/
def execAll : List Instr → State → Result
  | [], s => .next s
  | i :: r, s =>
    match exec i s with
    | .next t => execAll r t
    | .fault f => .fault f
    | .refused c => .refused c

/-- The address of the prediction that is pending (R31). -/
def State.pending (s : State) : Option Bits := if s.scValid = true then some s.scAddr else none

/-- Whether the block accepts a command sequence, by the ordering rule (R173): `p` is the address of the pending
prediction before the sequence. -/
def acceptable : Option Bits → List Instr → Prop
  | _, [] => True
  | p, i :: r =>
    match i.op with
    | .predict => acceptable (some i.addr) r
    | .update => p = some i.addr ∧ acceptable none r

/-- The grammar of R174. `ps` is the part `predict(b1) ... predict(bn)` of an episode. -/
inductive LegalRun : List Instr → Prop where
  /-- A run of no episodes. -/
  | nil : LegalRun []
  /-- The tail of a run: an episode without an `update`. -/
  | tail (ps : List Instr) (predicts : ∀ i ∈ ps, i.op = .predict) : LegalRun ps
  /-- An episode that ends in the `update` for the address of its last `predict`, and the rest of the run. -/
  | episode (ps : List Instr) (p u : Instr) (rest : List Instr)
      (predicts : ∀ i ∈ ps, i.op = .predict) (last : p.op = .predict) (ends : u.op = .update)
      (matching : u.addr = p.addr) (more : LegalRun rest) :
      LegalRun (ps ++ p :: u :: rest)

/-- Two states of one configuration that agree in everything a command can observe in the total view (R33): the
registers, every entry of every space, and the driver's channels. Presence may differ. -/
structure SameView (s t : State) : Prop where
  cfg : s.cfg = t.cfg
  bhr : s.bhr = t.bhr
  pabhr : ∀ k, s.pabhrT k = t.pabhrT k
  psbhr : ∀ k, s.psbhrT k = t.psbhrT k
  pht : ∀ k, s.phtT k = t.phtT k
  sc : s.sc = t.sc
  scValid : s.scValid = t.scValid
  scAddr : s.scAddr = t.scAddr
  responses : s.responses = t.responses

end Sys2Proof.Machine
end

