-- ==== Sys2Proof/Certificates/Slice0/Obligations.lean ====
section
/-!
DEFINITION. The statements for the provers, and the predicates they are written in.
-/

namespace Sys2Proof.Machine

/-- `m'` holds `v` under `k`, and every other key reads in it as in `m`. -/
def EntryWritten (m m' : Memory) (k v : Bits) : Prop :=
  m'.get k = some v ∧ ∀ q, q ≠ k → m'.get q = m.get q

/-- What every `predict(a)` at the index `idx` does to the table, the transient register, the protocol state and the
driver's channel, and that it leaves the rest of the model's own fields alone (R114). -/
structure PredictWrites (s t : State) (a idx : Bits) : Prop where
  entry : EntryWritten s.pht t.pht idx (s.phtT idx)
  sc : t.sc = s.phtT idx
  scValid : t.scValid = true
  scAddr : t.scAddr = a
  response : t.responses =
    s.responses ++ [.predicted (BranchResult.of (pos (s.phtT idx) 0))]
  cfg : t.cfg = s.cfg
  input : t.input = s.input
  draws : t.draws = s.draws

/-- What every accepted `update` that writes `counted` at the index `idx` does to the table, the transient register,
the protocol state and the driver's channel, and that it leaves the rest of the model's own fields alone (R129). -/
structure UpdateWrites (s t : State) (idx counted : Bits) : Prop where
  entry : EntryWritten s.pht t.pht idx counted
  sc : t.sc = s.sc
  scValid : t.scValid = false
  scAddr : t.scAddr = s.scAddr
  response : t.responses = s.responses ++ [.updated]
  cfg : t.cfg = s.cfg
  input : t.input = s.input
  draws : t.draws = s.draws

/-- Every element of the block, and its configuration, is the same in the two states: they may differ in the driver's
channels alone. -/
structure SameElements (s t : State) : Prop where
  cfg : t.cfg = s.cfg
  bhr : t.bhr = s.bhr
  pabhr : t.pabhr = s.pabhr
  psbhr : t.psbhr = s.psbhr
  pht : t.pht = s.pht
  sc : t.sc = s.sc
  scValid : t.scValid = s.scValid
  scAddr : t.scAddr = s.scAddr
  draws : t.draws = s.draws

/-- Two states answer one command alike: both accept it with the same one new response, and the states after it are
related by `R`; or both refuse it with the same cause. -/
def AnswerAlike (R : State → State → Prop) (s u : State) (x y : Result) : Prop :=
  (∃ s' u' r, x = .next s' ∧ y = .next u' ∧ R s' u' ∧
    s'.responses = s.responses ++ [r] ∧ u'.responses = u.responses ++ [r]) ∨
  ∃ cause, x = .refused cause ∧ y = .refused cause

/-- A GAg state `g` that shifts outcomes and a PAg state `p` that agree for the one address `a` (R145(a)): `BHR` is
`PABHR[a]`, the tables and the protocol state are equal, and `SC` is equal while it is valid. -/
structure OneAddressPair (a : Bits) (g p : State) : Prop where
  gag : g.cfg.variant = .GAg
  shifts : g.cfg.gagHistMode = .shiftOutcome
  pag : p.cfg.variant = .PAg
  n : g.cfg.n = p.cfg.n
  b : g.cfg.b = p.cfg.b
  w : g.cfg.w = p.cfg.w
  history : g.bhr = p.pabhrT a
  pht : ∀ k, g.phtT k = p.phtT k
  scValid : g.scValid = p.scValid
  scAddr : g.scAddr = p.scAddr
  sc : g.scValid = true → g.sc = p.sc

/-- The pairs of variants of R112(a): one keyed by the set id, and the one keyed by the address that it becomes. -/
def setAndAddressVariants (v w : Variant) : Prop :=
  v = .SAg ∧ w = .PAg ∨ v = .SAp ∧ w = .PAp ∨ v = .SAs ∧ w = .PAp

/-- A state `s` keyed by the set id and a state `u` keyed by the address that agree under the re-keying of `a` to
`hash_K(a)`, injective for K at least N (R64, R112(a)). -/
structure RekeyedPair (s u : State) : Prop where
  variants : setAndAddressVariants s.cfg.variant u.cfg.variant
  n : s.cfg.n = u.cfg.n
  b : s.cfg.b = u.cfg.b
  w : s.cfg.w = u.cfg.w
  k : s.cfg.n ≤ s.cfg.k
  bank : ∀ a, a.length = s.cfg.n → s.psbhrT (hashK s.cfg.k a) = u.pabhrT a
  pht : ∀ a h, a.length = s.cfg.n → s.phtT (keyPart s.cfg a ++ h) = u.phtT (keyPart u.cfg a ++ h)
  scValid : s.scValid = u.scValid
  scAddr : s.scAddr = u.scAddr
  sc : s.scValid = true → s.sc = u.sc

/-- The configuration fails the clause of R16. -/
def clauseFails (c : Config) : ConfigClause → Prop
  | .addrWidth => c.n = 0
  | .historyWidth => c.b = 0
  | .counterWidth => c.w = 0
  | .foldWidth => c.variant.usesFold = true ∧ c.k = 0
  | .loadWidth => c.variant = .GAg ∧ c.gagHistMode = .loadCounter ∧ c.b ≠ c.w

/-- The outcome bits of the `update`s in a command sequence whose addresses share the history register of `a`. -/
def outcomesFor (c : Config) (a : Bits) (is : List Instr) : Bits :=
  is.filterMap fun i =>
    match i.actual with
    | none => none
    | some o => if hrKey c i.addr = hrKey c a then some o.bit else none

end Sys2Proof.Machine

open Sys2Proof Sys2Proof.Machine

/-- count moves one step over the integers and clamps at both bounds. (the rule R81, R82) -/
def Obligations.CountClampsAtBothBounds : Prop :=
  ∀ (c : Bits) (t : Bool),
    (count c t).length = c.length ∧
    uint (count c t) = (if t then min (uint c + 1) (2 ^ c.length - 1) else uint c - 1) ∧
    (c ≠ ones c.length → uint (count c true) = uint c + 1) ∧
    count (ones c.length) true = ones c.length ∧
    (c ≠ zeros c.length → uint (count c false) + 1 = uint c) ∧
    count (zeros c.length) false = zeros c.length

/-- The laws of count: range, step, plateau, floor, monotone, and the two inverses. (the rule R84) -/
def Obligations.CountObeysTheCounterLaws : Prop :=
  ∀ (c d : Bits) (t : Bool) (n : Nat), 1 ≤ c.length → d.length = c.length →
    uint (count c t) ≤ 2 ^ c.length - 1 ∧
    (uint (count c true) = uint c + 1 ∨ uint (count c true) = uint c) ∧
    (uint (count c true) = uint c ↔ c = ones c.length) ∧
    (uint (count c false) + 1 = uint c ∨ uint (count c false) = uint c) ∧
    (uint (count c false) = uint c ↔ c = zeros c.length) ∧
    (List.replicate n true).foldl count c = bv c.length (min (uint c + n) (2 ^ c.length - 1)) ∧
    (List.replicate n false).foldl count c = bv c.length (uint c - n) ∧
    (uint c ≤ uint d → uint (count c t) ≤ uint (count d t)) ∧
    count (count c true) false =
      (if c = ones c.length then ones (c.length - 1) ++ [false] else c) ∧
    count (count c false) true =
      (if c = zeros c.length then zeros (c.length - 1) ++ [true] else c)

/-- A block predicts Taken exactly when its magnitude is in the upper half, and a cold block needs 2^(W-1) taken
updates. (the rule R85) -/
def Obligations.PredictionBitIsTheUpperHalf : Prop :=
  ∀ (c : Bits), 1 ≤ c.length →
    (predictionOf c = .taken ↔ pos c 0 = true) ∧
    (pos c 0 = true ↔ 2 ^ (c.length - 1) ≤ uint c) ∧
    (∀ ts : List Bool, pos (ts.foldl count (zeros c.length)) 0 = true →
      2 ^ (c.length - 1) ≤ ts.count true) ∧
    pos ((List.replicate (2 ^ (c.length - 1)) true).foldl count (zeros c.length)) 0 = true ∧
    (c.length = 1 → ∀ t : Bool, count c t = [t])

/-- Output bit j of the address fold is the XOR of all input bits i with i mod K = j. (the rule R88) -/
def Obligations.HashBitIsXorOfItsContributors : Prop :=
  ∀ (k : Nat) (a : Bits), 1 ≤ k →
    (hashK k a).length = k ∧
    ∀ j, j < k →
      pos (hashK k a) j =
        ((List.range a.length).filter (fun i => i % k == j)).foldr
          (fun i x => Bool.xor (pos a i) x) false

/-- The address fold for K = N, K > N, K = 1, K dividing N, and K not dividing N. (the rule R90) -/
def Obligations.HashAtTheCornersOfTheFoldWidth : Prop :=
  (∀ a : Bits, hashK a.length a = a) ∧
  (∀ (k : Nat) (a : Bits), a.length ≤ k → hashK k a = a ++ zeros (k - a.length)) ∧
  (∀ a : Bits, hashK 1 a = [a.foldr Bool.xor false]) ∧
  (∀ (k : Nat) (chunks : List Bits), 1 ≤ k → (∀ x ∈ chunks, x.length = k) →
    hashK k chunks.flatten = chunks.foldl (List.zipWith Bool.xor) (zeros k)) ∧
  (∀ (k p : Nat) (a : Bits), 1 ≤ k → hashK k (a ++ zeros p) = hashK k a) ∧
  (∀ c : Config, c.variant.usesFold = true → c.k = 0 → ¬c.wf)

/-- The address fold is linear over XOR, and flipping one input bit flips exactly one output bit. (from
40_combinational.md section 2, 90_conflicts.md C3) -/
def Obligations.HashIsLinearAndBitSensitive : Prop :=
  ∀ (k : Nat) (a b : Bits), 1 ≤ k → a.length = b.length →
    hashK k (List.zipWith Bool.xor a b) = List.zipWith Bool.xor (hashK k a) (hashK k b) ∧
    hashK k (zeros a.length) = zeros k ∧
    (∀ i, i < a.length → hashK k (xorAt a i true) = xorAt (hashK k a) (i % k) true) ∧
    (hashK k a = hashK k b ↔ hashK k (List.zipWith Bool.xor a b) = zeros k)

/-- Shift-in: every bit moves one position up, the leading bit is lost, the new bit is the trailing one. (the rule
R92) -/
def Obligations.ShiftInDropsTheLeadingBit : Prop :=
  ∀ (r : Bits) (b : Bool), 1 ≤ r.length →
    (shl1 r b).length = r.length ∧
    (∀ i, i + 1 < r.length → pos (shl1 r b) i = pos r (i + 1)) ∧
    pos (shl1 r b) (r.length - 1) = b ∧
    uint (shl1 r b) = (2 * uint r + b.toNat) % 2 ^ r.length ∧
    (r.length = 1 → shl1 r b = [b])

/-- After shift-ins a register holds the last B bits shifted in, oldest first. (the rule R95) -/
def Obligations.ShiftInsKeepTheLastOutcomes : Prop :=
  (∀ (B : Nat) (bs : Bits),
    bs.foldl shl1 (zeros B) =
      if bs.length ≤ B then zeros (B - bs.length) ++ bs else bs.drop (bs.length - B)) ∧
  (∀ r r' bs : Bits, r.length = r'.length → r.length ≤ bs.length →
    bs.foldl shl1 r = bs.foldl shl1 r')

/-- putIfAbsent stores only under an absent key, so the first of two values stays. (the rule R51) -/
def Obligations.PutIfAbsentNeverOverwrites : Prop :=
  ∀ (m : Memory) (k v v' : Bits),
    (m.get k = none → (m.putIfAbsent k v).get k = some v ∧ (m.putIfAbsent k v).present k = true ∧
      ((m.putIfAbsent k v).putIfAbsent k v').get k = some v) ∧
    (m.present k = true → m.putIfAbsent k v = m) ∧
    (∀ q, (m.putIfAbsent k v).total v q = m.total v q)

/-- Decoding the command word of a well-formed operation gives the operation back, for all fourteen. (the rule R68) -/
def Obligations.DecodeOfEncodeIsTheOperation : Prop :=
  ∀ (c : Config) (i : Instr), i.wf c = true →
    (encode i).length = c.n + 2 ∧
    pos (encode i) 0 = i.op.bit ∧
    (∀ o, i.actual = some o → pos (encode i) 1 = o.bit) ∧
    (encode i).drop 2 = i.addr ∧
    decode c (encode i) = .ok i

/-- A decoded operation is of the instance's variant, and its word is the word decoded but for predict's ignored
bit. (from 30_encoding.md section 2, 30_encoding.md section 3, notes/assumptions/16.md) The clause `encode i =
false :: false :: i.addr`, that the encoder writes predict's ignored bit as 0, is the model's choice
(notes/assumptions/16.md, DEDUCED); R71 says only that PREDICT ignores the bit. The rest is R71 and R73. -/
def Obligations.DecodedWordsAreWellFormedAndReencode : Prop :=
  ∀ (c : Config) (w : Bits) (i : Instr), decode c w = .ok i →
    i.wf c = true ∧ i.variant = c.variant ∧
    (i.op = .update → encode i = w) ∧
    (i.op = .predict → ∃ t : Bool, w = false :: t :: i.addr ∧ encode i = false :: false :: i.addr ∧
      decode c (false :: (!t) :: i.addr) = .ok i)

/-- A bit sequence decodes exactly when it has N + 2 bits. (the rule R77) -/
def Obligations.ExactlyTheWordsOfOneLengthDecode : Prop :=
  ∀ (c : Config) (w : Bits), (∃ i, decode c w = .ok i) ↔ w.length = c.n + 2

/-- The 2-bit header under the mask 0b10 is 0b00 for every predict and 0b10 for every update. (the rule R69) -/
def Obligations.HeaderMatchesTheOpcodeTable : Prop :=
  ∀ (c : Config) (w : Bits) (i : Instr), decode c w = .ok i →
    headerOf w < 4 ∧
    headerOf w &&& headerMask = i.headerMatch ∧
    (i.op = .predict ↔ headerOf w &&& 0b10 = 0b00) ∧
    (i.op = .update ↔ headerOf w &&& 0b10 = 0b10)

/-- Command words written out in the spec's programs decode to the operations they stand for. (from
95_test_vectors.md section 3 (P1a, P2, P3, P4, P5), 30_encoding.md section 3) -/
def Obligations.SampleWordsDecode : Prop :=
  decode { Config.initial with variant := .GAg } [false, false, true, false, true, false] =
    .ok (.gagPredict [true, false, true, false]) ∧
  decode { Config.initial with variant := .GAg } [true, false, true, false, true, false] =
    .ok (.gagUpdate [true, false, true, false] .notTaken) ∧
  decode { Config.initial with variant := .SAs } [true, true, true, false, false, false] =
    .ok (.sasUpdate [true, false, false, false] .taken) ∧
  decode { Config.initial with variant := .PAp, n := 3 } [false, false, true, false, true] =
    .ok (.papPredict [true, false, true]) ∧
  decode { Config.initial with variant := .PAg } [true, true, false, false, false, true] =
    .ok (.pagUpdate [false, false, false, true] .taken) ∧
  decode { Config.initial with variant := .GAs } [false, false, false, true, false, false] =
    .ok (.gasPredict [false, true, false, false])

/-- A step takes the driver's next command word, decodes it and runs it. (from 30_encoding.md section 2,
20_memory.md section 7) -/
def Obligations.StepRunsTheDecodedCommand : Prop :=
  ∀ (s : State) (w : Bits) (rest : List Input) (i : Instr),
    s.input = .command w :: rest → decode s.cfg w = .ok i →
    step s = exec i { s with input := rest }

/-- With no input pending a step leaves the state as it is (the model's choice). (from 70_reset_and_hazards.md
section 1, notes/assumptions/5.md) This is the model's choice (notes/assumptions/5.md), not a rule of the spec. -/
def Obligations.StepWithoutInputLeavesTheState : Prop :=
  ∀ s : State, s.input = [] → step s = .next s

/-- The reset input puts every element into its construction value and keeps the configuration. (from
70_reset_and_hazards.md section 1, notes/assumptions/3.md, notes/assumptions/10.md) That the driver's two
channels survive the reset is the model's choice (notes/assumptions/10.md), and so is that the numbering of the
free values goes on from s.draws (notes/assumptions/3.md). The rest is R168. -/
def Obligations.ResetInputRestoresConstruction : Prop :=
  ∀ (s : State) (rest : List Input), s.input = .reset :: rest →
    ∃ t, step s = .next t ∧ t.cfg = s.cfg ∧
      t = { State.resetOf s.cfg s.draws with input := rest, responses := s.responses }

/-- A constructed instance has every element at its reset value. (the rule R166, R167) -/
def Obligations.ConstructedInstanceIsInTheResetState : Prop :=
  ∀ c : Config, c.wf →
    ∃ t, construct c = .next t ∧ t.cfg = c ∧
      t.bhr = zeros c.b ∧
      (∀ k, t.pabhr.present k = false ∧ t.pabhrT k = zeros c.b) ∧
      (∀ k, t.psbhr.present k = false ∧ t.psbhrT k = zeros c.b) ∧
      (∀ k, t.pht.present k = false ∧ t.phtT k = zeros c.w) ∧
      t.pht.keys = [] ∧ t.pabhr.keys = [] ∧ t.psbhr.keys = [] ∧
      t.scValid = false ∧ t.sc.length = c.w ∧ t.scAddr.length = c.n

/-- An instance is built exactly from the well-formed configurations, and a refusal names a clause that fails. (the
rule R16, R149) -/
def Obligations.ConstructionAcceptsExactlyWellFormed : Prop :=
  ∀ c : Config,
    ((∃ t, construct c = .next t) ↔
      1 ≤ c.n ∧ 1 ≤ c.b ∧ 1 ≤ c.w ∧
      ((c.variant = .GAs ∨ c.variant = .SAg ∨ c.variant = .SAp ∨ c.variant = .SAs) → 1 ≤ c.k) ∧
      c.countMode = .saturating ∧ c.hashMode = .xor ∧
      (c.variant = .GAg → c.gagHistMode = .loadCounter → c.b = c.w)) ∧
    (∀ p, construct c = .refused (.configIllFormed p) → clauseFails c p) ∧
    (c.countMode = .saturating → c.hashMode = .xor → ¬c.wf →
      ∃ p, construct c = .refused (.configIllFormed p))

/-- A mode other than SATURATING or XOR is refused at construction, whatever else the configuration fails. (from
60_exceptions.md section 2, 60_exceptions.md section 3, notes/assumptions/14.md) With both modes unsupported,
that the mode of count is the one reported is the model's choice (notes/assumptions/14.md, DEDUCED). That an
unsupported mode is refused is R152; that it comes before the clauses of R16 is R156: "At construction,
`UnsupportedMode` is reported before `ConfigIllFormed`". -/
def Obligations.UnsupportedModesAreRefusedFirst : Prop :=
  ∀ c : Config,
    (c.countMode ≠ .saturating → construct c = .refused (.unsupportedMode (.count c.countMode))) ∧
    (c.countMode = .saturating → c.hashMode ≠ .xor →
      construct c = .refused (.unsupportedMode (.hash c.hashMode))) ∧
    (c.countMode = .saturating → c.hashMode = .xor →
      ∀ m, construct c ≠ .refused (.unsupportedMode m))

/-- The invariant holds of every newly constructed instance, and of the machine's reset state. (from 10_state.md
section 8, 00_scope.md section 3) The configuration of State.reset is the model's choice
(notes/assumptions/2.md). -/
def Obligations.InvariantHoldsAtConstruction : Prop :=
  (∀ (c : Config) (d : Nat), c.wf → (State.resetOf c d).Inv) ∧ State.reset.Inv

/-- Every step keeps the widths, the canonical form, the absence of other variants' elements, and the tie between SC
and the table. (from 10_state.md section 6, 43_update.md section 4, 41_indexing.md section 4) -/
def Obligations.EveryStepKeepsTheInvariant : Prop :=
  ∀ s t : State, s.Inv → step s = .next t → t.Inv

/-- No step changes the configuration, and no widths change. (the rule R17) -/
def Obligations.NoStepChangesTheConfiguration : Prop :=
  ∀ s t : State, step s = .next t →
    t.cfg = s.cfg ∧
    (s.Inv → t.bhr.length = s.bhr.length ∧ t.sc.length = s.sc.length ∧
      (∀ k, (t.pabhrT k).length = (s.pabhrT k).length) ∧
      (∀ k, (t.psbhrT k).length = (s.psbhrT k).length) ∧
      (∀ k, (t.phtT k).length = (s.phtT k).length))

/-- A command adds to the presence sets at most the index and the bank key of its address, and no key ever leaves.
(the rule R32) -/
def Obligations.PresenceGrowsByOneIndexAndOneKey : Prop :=
  (∀ (i : Instr) (s t : State), exec i s = .next t →
    (∀ q, t.pht.present q = true ↔ s.pht.present q = true ∨ q = s.index i.addr) ∧
    (∀ q, t.pabhr.present q = true ↔ s.pabhr.present q = true ∨
      (s.cfg.variant.hasPabhr = true ∧ hrKey s.cfg i.addr = some q)) ∧
    (∀ q, t.psbhr.present q = true ↔ s.psbhr.present q = true ∨
      (s.cfg.variant.hasPsbhr = true ∧ hrKey s.cfg i.addr = some q))) ∧
  (∀ (c : Config) (d : Nat), (State.resetOf c d).pht.keys = [] ∧
    (State.resetOf c d).pabhr.keys = [] ∧ (State.resetOf c d).psbhr.keys = [])

/-- GAg.predict reads the block at BHR, loads it into SC and answers its leading bit. (the rule R115) -/
def Obligations.GAgPredictReadsAtTheGlobalHistory : Prop :=
  ∀ (s : State) (a : Bits), s.cfg.variant = .GAg → a.length = s.cfg.n →
    ∃ t, exec (.gagPredict a) s = .next t ∧
      PredictWrites s t a s.bhr ∧
      t.bhr = s.bhr ∧ t.pabhr = s.pabhr ∧ t.psbhr = s.psbhr

/-- GAs.predict reads the block at hash_K(a), BHR, loads it into SC and answers its leading bit. (the rule R116) -/
def Obligations.GAsPredictReadsAtSetAndGlobalHistory : Prop :=
  ∀ (s : State) (a : Bits), s.cfg.variant = .GAs → a.length = s.cfg.n →
    ∃ t, exec (.gasPredict a) s = .next t ∧
      PredictWrites s t a (hashK s.cfg.k a ++ s.bhr) ∧
      t.bhr = s.bhr ∧ t.pabhr = s.pabhr ∧ t.psbhr = s.psbhr

/-- PAg.predict reads the block at PABHR[a], loads it into SC and answers its leading bit. (the rule R117) -/
def Obligations.PAgPredictReadsAtItsOwnHistory : Prop :=
  ∀ (s : State) (a : Bits), s.cfg.variant = .PAg → a.length = s.cfg.n →
    ∃ t, exec (.pagPredict a) s = .next t ∧
      PredictWrites s t a (s.pabhrT a) ∧
      EntryWritten s.pabhr t.pabhr a (s.pabhrT a) ∧ t.bhr = s.bhr ∧ t.psbhr = s.psbhr

/-- PAp.predict reads the block at a, PABHR[a], loads it into SC and answers its leading bit. (the rule R118) -/
def Obligations.PApPredictReadsItsOwnSubTable : Prop :=
  ∀ (s : State) (a : Bits), s.cfg.variant = .PAp → a.length = s.cfg.n →
    ∃ t, exec (.papPredict a) s = .next t ∧
      PredictWrites s t a (a ++ s.pabhrT a) ∧
      EntryWritten s.pabhr t.pabhr a (s.pabhrT a) ∧ t.bhr = s.bhr ∧ t.psbhr = s.psbhr

/-- SAg.predict reads the block at PSBHR[hash_K(a)], loads it into SC and answers its leading bit. (the rule R119) -/
def Obligations.SAgPredictReadsAtItsSetHistory : Prop :=
  ∀ (s : State) (a : Bits), s.cfg.variant = .SAg → a.length = s.cfg.n →
    ∃ t, exec (.sagPredict a) s = .next t ∧
      PredictWrites s t a (s.psbhrT (hashK s.cfg.k a)) ∧
      EntryWritten s.psbhr t.psbhr (hashK s.cfg.k a) (s.psbhrT (hashK s.cfg.k a)) ∧ t.bhr = s.bhr ∧ t.pabhr = s.pabhr

/-- SAp.predict reads the block at a, PSBHR[hash_K(a)], loads it into SC and answers its leading bit. (the rule
R120) -/
def Obligations.SApPredictReadsItsOwnSubTable : Prop :=
  ∀ (s : State) (a : Bits), s.cfg.variant = .SAp → a.length = s.cfg.n →
    ∃ t, exec (.sapPredict a) s = .next t ∧
      PredictWrites s t a (a ++ s.psbhrT (hashK s.cfg.k a)) ∧
      EntryWritten s.psbhr t.psbhr (hashK s.cfg.k a) (s.psbhrT (hashK s.cfg.k a)) ∧ t.bhr = s.bhr ∧ t.pabhr = s.pabhr

/-- SAs.predict reads the block at hash_K(a), PSBHR[hash_K(a)], loads it into SC and answers its leading bit. (the
rule R121) -/
def Obligations.SAsPredictReadsTheSubTableOfItsSet : Prop :=
  ∀ (s : State) (a : Bits), s.cfg.variant = .SAs → a.length = s.cfg.n →
    ∃ t, exec (.sasPredict a) s = .next t ∧
      PredictWrites s t a (hashK s.cfg.k a ++ s.psbhrT (hashK s.cfg.k a)) ∧
      EntryWritten s.psbhr t.psbhr (hashK s.cfg.k a) (s.psbhrT (hashK s.cfg.k a)) ∧ t.bhr = s.bhr ∧ t.pabhr = s.pabhr

/-- GAg.update writes the counter at BHR and loads it into BHR, or shifts the outcome in, by GAG_HIST_MODE. (the
rule R134, R135, R136) -/
def Obligations.GAgUpdateCountsAndAdvancesByMode : Prop :=
  ∀ (s : State) (a : Bits) (o : BranchResult),
    s.cfg.variant = .GAg → a.length = s.cfg.n → s.scValid = true → s.scAddr = a →
    ∃ t, exec (.gagUpdate a o) s = .next t ∧
      UpdateWrites s t s.bhr (count s.sc o.isTaken) ∧
      (s.cfg.gagHistMode = .loadCounter → t.bhr = count s.sc o.isTaken) ∧
      (s.cfg.gagHistMode = .shiftOutcome → t.bhr = shl1 s.bhr o.bit) ∧
      t.pabhr = s.pabhr ∧ t.psbhr = s.psbhr

/-- GAs.update writes the counter at hash_K(a), BHR and shifts the outcome into its history register. (the rule
R137) -/
def Obligations.GAsUpdateCountsAndShiftsGlobalHistory : Prop :=
  ∀ (s : State) (a : Bits) (o : BranchResult),
    s.cfg.variant = .GAs → a.length = s.cfg.n → s.scValid = true → s.scAddr = a →
    ∃ t, exec (.gasUpdate a o) s = .next t ∧
      UpdateWrites s t (hashK s.cfg.k a ++ s.bhr) (count s.sc o.isTaken) ∧
      t.bhr = shl1 s.bhr o.bit ∧
      t.pabhr = s.pabhr ∧ t.psbhr = s.psbhr

/-- PAg.update writes the counter at PABHR[a] and shifts the outcome into its history register. (the rule R138) -/
def Obligations.PAgUpdateCountsAndShiftsItsHistory : Prop :=
  ∀ (s : State) (a : Bits) (o : BranchResult),
    s.cfg.variant = .PAg → a.length = s.cfg.n → s.scValid = true → s.scAddr = a →
    ∃ t, exec (.pagUpdate a o) s = .next t ∧
      UpdateWrites s t (s.pabhrT a) (count s.sc o.isTaken) ∧
      EntryWritten s.pabhr t.pabhr a (shl1 (s.pabhrT a) o.bit) ∧
      t.bhr = s.bhr ∧ t.psbhr = s.psbhr

/-- PAp.update writes the counter at a, PABHR[a] and shifts the outcome into its history register. (the rule R139) -/
def Obligations.PApUpdateCountsInItsOwnSubTable : Prop :=
  ∀ (s : State) (a : Bits) (o : BranchResult),
    s.cfg.variant = .PAp → a.length = s.cfg.n → s.scValid = true → s.scAddr = a →
    ∃ t, exec (.papUpdate a o) s = .next t ∧
      UpdateWrites s t (a ++ s.pabhrT a) (count s.sc o.isTaken) ∧
      EntryWritten s.pabhr t.pabhr a (shl1 (s.pabhrT a) o.bit) ∧
      t.bhr = s.bhr ∧ t.psbhr = s.psbhr

/-- SAg.update writes the counter at PSBHR[hash_K(a)] and shifts the outcome into its history register. (the rule
R140) -/
def Obligations.SAgUpdateCountsAndShiftsItsSetHistory : Prop :=
  ∀ (s : State) (a : Bits) (o : BranchResult),
    s.cfg.variant = .SAg → a.length = s.cfg.n → s.scValid = true → s.scAddr = a →
    ∃ t, exec (.sagUpdate a o) s = .next t ∧
      UpdateWrites s t (s.psbhrT (hashK s.cfg.k a)) (count s.sc o.isTaken) ∧
      EntryWritten s.psbhr t.psbhr (hashK s.cfg.k a) (shl1 (s.psbhrT (hashK s.cfg.k a)) o.bit) ∧
      t.bhr = s.bhr ∧ t.pabhr = s.pabhr

/-- SAp.update writes the counter at a, PSBHR[hash_K(a)] and shifts the outcome into its history register. (the rule
R141) -/
def Obligations.SApUpdateCountsInItsOwnSubTable : Prop :=
  ∀ (s : State) (a : Bits) (o : BranchResult),
    s.cfg.variant = .SAp → a.length = s.cfg.n → s.scValid = true → s.scAddr = a →
    ∃ t, exec (.sapUpdate a o) s = .next t ∧
      UpdateWrites s t (a ++ s.psbhrT (hashK s.cfg.k a)) (count s.sc o.isTaken) ∧
      EntryWritten s.psbhr t.psbhr (hashK s.cfg.k a) (shl1 (s.psbhrT (hashK s.cfg.k a)) o.bit) ∧
      t.bhr = s.bhr ∧ t.pabhr = s.pabhr

/-- SAs.update writes the counter at hash_K(a), PSBHR[hash_K(a)] and shifts the outcome into its history register.
(the rule R142) -/
def Obligations.SAsUpdateCountsInTheSubTableOfItsSet : Prop :=
  ∀ (s : State) (a : Bits) (o : BranchResult),
    s.cfg.variant = .SAs → a.length = s.cfg.n → s.scValid = true → s.scAddr = a →
    ∃ t, exec (.sasUpdate a o) s = .next t ∧
      UpdateWrites s t (hashK s.cfg.k a ++ s.psbhrT (hashK s.cfg.k a)) (count s.sc o.isTaken) ∧
      EntryWritten s.psbhr t.psbhr (hashK s.cfg.k a) (shl1 (s.psbhrT (hashK s.cfg.k a)) o.bit) ∧
      t.bhr = s.bhr ∧ t.pabhr = s.pabhr

/-- Each variant's predict is the generic six-step algorithm with its own history key and prefix. (the rule R114) -/
def Obligations.PredictsFollowTheGenericAlgorithm : Prop :=
  ∀ (s : State) (i : Instr), i.wf s.cfg = true → i.op = .predict →
    exec i s = genericPredict i.addr s

/-- Each variant's update is the generic five-step algorithm with its own history key and prefix. (the rule R129) -/
def Obligations.UpdatesFollowTheGenericAlgorithm : Prop :=
  ∀ (s : State) (i : Instr) (o : BranchResult), i.wf s.cfg = true → i.actual = some o →
    exec i s = genericUpdate i.addr o s

/-- predict leaves every history register value and every PHT value as it was. (the rule R123) -/
def Obligations.PredictKeepsTheTotalView : Prop :=
  ∀ (i : Instr) (s t : State), i.op = .predict → exec i s = .next t →
    t.bhr = s.bhr ∧ (∀ k, t.pabhrT k = s.pabhrT k) ∧ (∀ k, t.psbhrT k = s.psbhrT k) ∧
    (∀ k, t.phtT k = s.phtT k) ∧ t.cfg = s.cfg ∧ t.input = s.input ∧ t.draws = s.draws

/-- An accepted update writes one PHT entry, one history register and SC_valid, and a refused one writes nothing.
(the rule R143) -/
def Obligations.UpdateWritesOneEntryAndOneHistoryRegister : Prop :=
  ∀ (i : Instr) (s : State), i.op = .update →
    (∀ t, exec i s = .next t →
      (∀ q, q ≠ s.index i.addr → t.pht.get q = s.pht.get q) ∧
      t.pht.present (s.index i.addr) = true ∧
      (s.cfg.variant.hasBhr = false → t.bhr = s.bhr) ∧
      (s.cfg.variant.hasPabhr = false → t.pabhr = s.pabhr) ∧
      (s.cfg.variant.hasPsbhr = false → t.psbhr = s.psbhr) ∧
      (∀ q, hrKey s.cfg i.addr ≠ some q →
        t.pabhr.get q = s.pabhr.get q ∧ t.psbhr.get q = s.psbhr.get q) ∧
      t.sc = s.sc ∧ t.scAddr = s.scAddr ∧ t.scValid = false ∧
      t.cfg = s.cfg ∧ t.input = s.input ∧ t.draws = s.draws) ∧
    (∀ cause, exec i s = .refused cause → SameElements s (s.afterRefusal cause))

/-- On every accepted update SC is the table's block at the index, so the entry becomes its own count. (the rule
R144) -/
def Obligations.UpdateCountsTheEntryItOverwrites : Prop :=
  ∀ (i : Instr) (o : BranchResult) (s t : State), s.Inv → i.actual = some o → exec i s = .next t →
    s.sc = s.phtT (s.index i.addr) ∧
    t.phtT (s.index i.addr) = count (s.phtT (s.index i.addr)) o.isTaken ∧
    (∀ q, q ≠ s.index i.addr → t.phtT q = s.phtT q) ∧
    t.hr i.addr = advanced s.cfg (s.hr i.addr) (count (s.phtT (s.index i.addr)) o.isTaken) o

/-- Predicts move no index, so the entry an update writes is the one at the index its predict used, the entry SC was
read from. (from 41_indexing.md section 4, 43_update.md section 2) This is R109. -/
def Obligations.IndexAtUpdateIsTheIndexAtPredict : Prop :=
  ∀ (is : List Instr) (s t : State), (∀ i ∈ is, i.op = .predict) → execAll is s = .next t →
    (∀ a, t.index a = s.index a) ∧
    ∀ (u : Instr) (o : BranchResult) (v : State), u.actual = some o → exec u t = .next v →
      EntryWritten t.pht v.pht (s.index u.addr) (count t.sc o.isTaken) ∧
      (is ≠ [] → t.sc = s.phtT (s.index u.addr))

/-- Two predicts in a row leave what the second alone would leave, but for presence. (the rule R125) -/
def Obligations.RepeatedPredictLeavesTheLastAlone : Prop :=
  ∀ (i j : Instr) (s : State), i.op = .predict → j.op = .predict →
    i.wf s.cfg = true → j.wf s.cfg = true →
    ∃ (t u v : State) (r : Response), exec i s = .next t ∧ exec j t = .next u ∧ exec j s = .next v ∧
      u.responses = t.responses ++ [r] ∧ v.responses = s.responses ++ [r] ∧
      SameView { u with responses := v.responses } v ∧
      (i = j → u = { t with responses := u.responses })

/-- update is accepted exactly when SC_valid = 1 and SC_addr is its address, and is refused with ProtocolViolation
otherwise. (the rule R131, R151) -/
def Obligations.UpdateIsAcceptedExactlyWhenItMatches : Prop :=
  ∀ (i : Instr) (s : State), i.op = .update → i.wf s.cfg = true →
    ((∃ t, exec i s = .next t) ↔ s.scValid = true ∧ s.scAddr = i.addr) ∧
    (∀ cause, exec i s = .refused cause ↔
      ¬(s.scValid = true ∧ s.scAddr = i.addr) ∧ cause = .protocolViolation i.addr) ∧
    (∀ cause, exec i s = .refused cause → SameElements s (s.afterRefusal cause))

/-- An address operand that is not N bits is refused with OperandWidth, before the protocol check, and no word has
one. (from 60_exceptions.md section 2, 60_exceptions.md section 3, notes/assumptions/8.md) The second clause,
what a step does with bits on the channel whose address field is not N bits, is the model's choice
(notes/assumptions/8.md): R150 says that with the fixed-width command word the cause cannot arise. The other two
clauses are R150, with the order of R156. -/
def Obligations.OperandWidthIsRefusedBeforeAnyStep : Prop :=
  (∀ (i : Instr) (s : State), i.variant = s.cfg.variant → i.addr.length ≠ s.cfg.n →
    exec i s = .refused (.operandWidth i.addr.length)) ∧
  (∀ (s : State) (rest : List Input) (b t : Bool) (a : Bits),
    s.input = .command (b :: t :: a) :: rest → a.length ≠ s.cfg.n →
    step s = .refused (.operandWidth a.length)) ∧
  (∀ (c : Config) (w : Bits) (i : Instr), decode c w = .ok i → i.addr.length = c.n)

/-- Whether a command is refused depends on the configuration, SC_valid, SC_addr and the command alone. (the rule
R159) -/
def Obligations.RefusalDependsOnProtocolStateAlone : Prop :=
  ∀ (i : Instr) (s t : State), s.cfg = t.cfg → s.scValid = t.scValid → s.scAddr = t.scAddr →
    ∀ cause, exec i s = .refused cause ↔ exec i t = .refused cause

/-- A refused command reports its cause and leaves every element of the block as it was. (from 60_exceptions.md
section 1, 60_exceptions.md section 2, notes/assumptions/8.md) The third clause, that a step refuses bits whose
address field is not N bits, is the model's choice (notes/assumptions/8.md). That the block is at the driver's
next input after a refusal is R158; the rest is R147. -/
def Obligations.RefusedCommandChangesNoElement : Prop :=
  (∀ (s : State) (cause : Refusal), step s = .refused cause →
    SameElements s (serve s) ∧
    (serve s).responses = s.responses ++ [.refused cause] ∧
    (serve s).input = s.input.tail) ∧
  (∀ (s : State) (w : Bits) (rest : List Input) (i : Instr),
    s.input = .command w :: rest → decode s.cfg w = .ok i → i.op = .update →
    ¬(s.scValid = true ∧ s.scAddr = i.addr) → step s = .refused (.protocolViolation i.addr)) ∧
  (∀ (s : State) (rest : List Input) (b t : Bool) (a : Bits),
    s.input = .command (b :: t :: a) :: rest → a.length ≠ s.cfg.n →
    step s = .refused (.operandWidth a.length)) ∧
  (∀ c : Config, ¬c.wf → ∃ cause, construct c = .refused cause)

/-- Right after construction every predict completes and answers NotTaken, for all variants. (the rule R169) -/
def Obligations.FirstPredictionIsNotTaken : Prop :=
  ∀ (c : Config) (d : Nat) (i : Instr), c.wf → i.wf c = true → i.op = .predict →
    (∃ t, exec i (State.resetOf c d) = .next t ∧ t.responses = [.predicted .notTaken]) ∧
    ∀ s : State, s.cfg = c → s.pht = [] →
      ∃ t, exec i s = .next t ∧ t.responses = s.responses ++ [.predicted .notTaken]

/-- The pair predict, update of one address is accepted from every state, and its response is the predict's. (the
rule R79) -/
def Obligations.BranchPairIsAlwaysAccepted : Prop :=
  ∀ (s : State) (a : Bits) (o : BranchResult), a.length = s.cfg.n →
    ∃ t, execAll (branch s.cfg.variant a o) s = .next t ∧
      t.responses =
        s.responses ++ [.predicted (predictionOf (s.phtT (s.index a))), .updated] ∧
      t.scValid = false

/-- A command sequence runs without refusal exactly when every update directly follows the predict of its address.
(the rule R173) -/
def Obligations.RunsAreAcceptedByTheOrderingRule : Prop :=
  ∀ (is : List Instr) (s : State), (∀ i ∈ is, i.wf s.cfg = true) →
    ((∃ t, execAll is s = .next t) ↔ acceptable s.pending is)

/-- From construction, the accepted runs are exactly those of the grammar, and every other is refused with
ProtocolViolation. (the rule R174) -/
def Obligations.LegalRunsAreExactlyTheGrammar : Prop :=
  ∀ (c : Config) (is : List Instr), c.wf → (∀ i ∈ is, i.wf c = true) →
    ((∃ t, execAll is (State.resetOf c 0) = .next t) ↔ LegalRun is) ∧
    (¬LegalRun is → ∃ a, execAll is (State.resetOf c 0) = .refused (.protocolViolation a))

/-- Presence is unobservable: instances with one total view give one run. (from 10_state.md section 5) -/
def Obligations.TotalViewDeterminesEveryRun : Prop :=
  ∀ (is : List Instr) (s t : State), SameView s t →
    (∀ s', execAll is s = .next s' → ∃ t', execAll is t = .next t' ∧ SameView s' t') ∧
    (∀ cause, execAll is s = .refused cause ↔ execAll is t = .refused cause)

/-- PAg driven with a single address reproduces GAg in SHIFT_OUTCOME mode bit for bit. (from 43_update.md section 4,
90_conflicts.md C2) This is R145(a). -/
def Obligations.PAgWithOneAddressIsGAgWithShift : Prop :=
  (∀ (a : Bits) (x : Command) (g p : State), OneAddressPair a g p → x.addr = a →
    AnswerAlike (OneAddressPair a) g p
      (exec (Instr.ofCommand .GAg x) g) (exec (Instr.ofCommand .PAg x) p)) ∧
  ∀ (cg cp : Config) (a : Bits) (cmds : List Command), cg.wf → cp.wf →
    cg.variant = .GAg → cg.gagHistMode = .shiftOutcome → cp.variant = .PAg →
    cg.n = cp.n → cg.b = cp.b → cg.w = cp.w → a.length = cg.n →
    (∀ x ∈ cmds, x.addr = a) → LegalRun (cmds.map (Instr.ofCommand .GAg)) →
    ∃ g p, execAll (cmds.map (Instr.ofCommand .GAg)) (State.resetOf cg 0) = .next g ∧
      execAll (cmds.map (Instr.ofCommand .PAg)) (State.resetOf cp 0) = .next p ∧
      g.responses = p.responses ∧ g.bhr = p.pabhrT a ∧ (∀ k, g.phtT k = p.phtT k) ∧
      g.scValid = p.scValid ∧ (g.scValid = true → g.sc = p.sc)

/-- With K at least N, SAg predicts as PAg, and SAp and SAs as PAp. (from 41_indexing.md section 4, 20_memory.md
section 8) This is R112(a), by R64. -/
def Obligations.WideFoldMakesSetsAddresses : Prop :=
  (∀ (x : Command) (s u : State), RekeyedPair s u →
    AnswerAlike RekeyedPair s u
      (exec (Instr.ofCommand s.cfg.variant x) s) (exec (Instr.ofCommand u.cfg.variant x) u)) ∧
  ∀ (cs cp : Config) (cmds : List Command), cs.wf → cp.wf →
    setAndAddressVariants cs.variant cp.variant →
    cs.n = cp.n → cs.b = cp.b → cs.w = cp.w → cs.n ≤ cs.k →
    (∀ x ∈ cmds, x.addr.length = cs.n) → LegalRun (cmds.map (Instr.ofCommand cs.variant)) →
    ∃ t u, execAll (cmds.map (Instr.ofCommand cs.variant)) (State.resetOf cs 0) = .next t ∧
      execAll (cmds.map (Instr.ofCommand cp.variant)) (State.resetOf cp 0) = .next u ∧
      t.responses = u.responses

/-- When two different addresses share a history register and when they share a PHT entry, variant by variant. (the
rule R110) -/
def Obligations.SharingOfHistoriesAndEntriesByVariant : Prop :=
  ∀ (s : State) (a b : Bits), a.length = s.cfg.n → b.length = s.cfg.n → a ≠ b →
    match s.cfg.variant with
    | .GAg => hrKey s.cfg a = hrKey s.cfg b ∧ s.index a = s.index b
    | .GAs => hrKey s.cfg a = hrKey s.cfg b ∧
        (s.index a = s.index b ↔ hashK s.cfg.k a = hashK s.cfg.k b)
    | .PAg => hrKey s.cfg a ≠ hrKey s.cfg b ∧
        (s.index a = s.index b ↔ s.pabhrT a = s.pabhrT b)
    | .PAp => hrKey s.cfg a ≠ hrKey s.cfg b ∧ s.index a ≠ s.index b
    | .SAg => (hrKey s.cfg a = hrKey s.cfg b ↔ hashK s.cfg.k a = hashK s.cfg.k b) ∧
        (s.index a = s.index b ↔ s.psbhrT (hashK s.cfg.k a) = s.psbhrT (hashK s.cfg.k b))
    | .SAp => (hrKey s.cfg a = hrKey s.cfg b ↔ hashK s.cfg.k a = hashK s.cfg.k b) ∧
        s.index a ≠ s.index b
    | .SAs => (hrKey s.cfg a = hrKey s.cfg b ↔ hashK s.cfg.k a = hashK s.cfg.k b) ∧
        (s.index a = s.index b ↔ hashK s.cfg.k a = hashK s.cfg.k b)

/-- For every variant the index has IDXW bits and the bank key KEYW bits. (the rule R111) -/
def Obligations.EveryIndexAndKeyHasItsWidth : Prop :=
  ∀ (s : State) (a : Bits), s.Inv → a.length = s.cfg.n →
    (keyPart s.cfg a).length + s.cfg.b = s.cfg.indexWidth ∧
    (s.index a).length = s.cfg.indexWidth ∧
    (hrKey s.cfg a).map List.length = s.cfg.keyWidth

/-- A history register under shift-in holds the last B outcomes recorded for its scope, oldest first, zeros before
them. (the rule R42) -/
def Obligations.HistoryIsTheLastOutcomesOfItsScope : Prop :=
  (∀ (s t : State) (i : Instr) (b : Bits),
    ¬(s.cfg.variant = .GAg ∧ s.cfg.gagHistMode = .loadCounter) → exec i s = .next t →
    t.hr b =
      match i.actual with
      | some o => if hrKey s.cfg i.addr = hrKey s.cfg b then shl1 (s.hr b) o.bit else s.hr b
      | none => s.hr b) ∧
  ∀ (c : Config) (is : List Instr) (t : State) (a : Bits), c.wf →
    ¬(c.variant = .GAg ∧ c.gagHistMode = .loadCounter) → a.length = c.n →
    execAll is (State.resetOf c 0) = .next t →
    t.hr a = (zeros c.b ++ outcomesFor c a is).drop (outcomesFor c a is).length

/-- In GAg's LOAD_COUNTER mode BHR is the counter the last update wrote, and zero before the first. (the rule R43) -/
def Obligations.LoadedHistoryIsTheCounterWritten : Prop :=
  (∀ (s t : State) (a : Bits) (o : BranchResult), s.cfg.gagHistMode = .loadCounter →
    exec (.gagUpdate a o) s = .next t →
      t.bhr = count s.sc o.isTaken ∧ t.pht.get s.bhr = some t.bhr) ∧
  (∀ (s t : State) (a : Bits), exec (.gagPredict a) s = .next t → t.bhr = s.bhr) ∧
  (∀ (c : Config) (d : Nat) (is : List Instr) (t : State), (∀ i ∈ is, i.op = .predict) →
    execAll is (State.resetOf c d) = .next t → t.bhr = zeros c.b) ∧
  (∀ c : Config, c.wf → c.variant = .GAg → c.gagHistMode = .loadCounter → c.b = c.w)
end

