-- ==== Sys2Proof/Laws/Memory.lean ====
section
/-!
SUPPORT. The laws of the storage spaces (20_memory.md sections 3 and 4): what each operation does to every key, and that
every operation keeps the canonical form and the widths.
-/

namespace Sys2Proof.Machine

/-! ## The order of the keys -/

theorem keyLt_irrefl (x : Bits) : keyLt x x = false := by
  induction x with
  | nil => rfl
  | cons a x ih => simp [keyLt, ih]

theorem keyLt_trans {x y z : Bits} (hxy : keyLt x y = true) (hyz : keyLt y z = true) :
    keyLt x z = true := by
  induction x generalizing y z with
  | nil => cases y <;> cases z <;> simp_all [keyLt]
  | cons a x ih =>
    cases y with
    | nil => simp [keyLt] at hxy
    | cons b y =>
      cases z with
      | nil => simp [keyLt] at hyz
      | cons c z =>
        cases a <;> cases b <;> cases c <;> simp_all [keyLt]
        all_goals exact ih hxy hyz

/-- Two different keys are in order one way or the other. -/
theorem keyLt_total {x y : Bits} (hne : x ≠ y) (hxy : keyLt x y = false) : keyLt y x = true := by
  induction x generalizing y with
  | nil => cases y <;> simp_all [keyLt]
  | cons a x ih =>
    cases y with
    | nil => simp [keyLt]
    | cons b y =>
      cases a <;> cases b <;> simp_all [keyLt]

theorem keyLt_ne {x y : Bits} (h : keyLt x y = true) : x ≠ y := by
  rintro rfl
  simp [keyLt_irrefl] at h

/-! ## `get` after each operation -/

namespace Memory

variable (m : Memory) (k v q : Bits)

@[simp] theorem get_nil : Memory.get [] q = none := rfl

/-- A read after a `put` (R50): the value put at that key, what was there before at every other. -/
theorem get_put : (m.put k v).get q = if q = k then some v else m.get q := by
  induction m with
  | nil =>
    by_cases h : q = k
    · simp [Memory.put, Memory.get, h]
    · simp [Memory.put, Memory.get, h, Ne.symm h]
  | cons e m ih =>
    obtain ⟨k', v'⟩ := e
    simp only [Memory.put]
    by_cases hk : k = k'
    · subst hk
      by_cases hq : q = k
      · simp [Memory.get, hq]
      · simp [Memory.get, hq, Ne.symm hq]
    · simp only [hk, if_false]
      by_cases hlt : keyLt k k' = true
      · simp only [hlt, if_true]
        by_cases hq : q = k
        · simp [Memory.get, hq]
        · simp [Memory.get, hq, Ne.symm hq]
      · rw [if_neg hlt]
        by_cases hq : k' = q
        · have hne : q ≠ k := fun h => hk (h ▸ hq.symm)
          simp [hq, hne, Memory.get]
        · simp [hq, ih, Memory.get]

@[simp] theorem get_put_self : (m.put k v).get k = some v := by simp [get_put]

theorem get_put_of_ne (h : q ≠ k) : (m.put k v).get q = m.get q := by simp [get_put, h]

/-- A read after `putIfAbsent` (R51). -/
theorem get_putIfAbsent :
    (m.putIfAbsent k v).get q = if q = k then some (m.total v k) else m.get q := by
  unfold Memory.putIfAbsent Memory.present Memory.total
  by_cases hq : q = k
  · subst hq
    cases h : m.get q <;> simp [h]
  · cases h : m.get k <;> simp [get_put, hq]

/-- The value a bank read gives (R53). -/
@[simp] theorem readCreate_fst : (m.readCreate v k).1 = m.total v k := by
  unfold Memory.readCreate Memory.total
  cases m.get k <;> rfl

/-- A read after a bank read (R53). -/
theorem get_readCreate :
    (m.readCreate v k).2.get q = if q = k then some (m.total v k) else m.get q := by
  unfold Memory.readCreate Memory.total
  cases h : m.get k with
  | none => simp [get_put]
  | some w =>
    by_cases hq : q = k
    · simp [hq, h]
    · simp [hq]

/-- Every key reads in the total view as before after an insertion of the default (R33). -/
theorem total_putIfAbsent : (m.putIfAbsent k v).total v q = m.total v q := by
  unfold Memory.total
  rw [get_putIfAbsent]
  by_cases hq : q = k
  · simp [hq, Memory.total]
  · simp [hq]

theorem total_readCreate : (m.readCreate v k).2.total v q = m.total v q := by
  unfold Memory.total
  rw [get_readCreate]
  by_cases hq : q = k
  · simp [hq, Memory.total]
  · simp [hq]

theorem total_put (d : Bits) : (m.put k v).total d q = if q = k then v else m.total d q := by
  unfold Memory.total
  rw [get_put]
  by_cases hq : q = k <;> simp [hq]

/-! ## The canonical form and the widths -/

/-- Every entry after a `put` is the entry put or one of those before. -/
theorem mem_put {e : Bits × Bits} (h : e ∈ m.put k v) : e = (k, v) ∨ e ∈ m := by
  induction m with
  | nil => simpa [Memory.put] using h
  | cons f m ih =>
    obtain ⟨k', v'⟩ := f
    simp only [Memory.put] at h
    split at h
    · rcases List.mem_cons.1 h with h | h
      · exact .inl h
      · exact .inr (List.mem_cons_of_mem _ h)
    · split at h
      · rcases List.mem_cons.1 h with h | h
        · exact .inl h
        · exact .inr h
      · rcases List.mem_cons.1 h with h | h
        · exact .inr (h ▸ List.mem_cons_self)
        · rcases ih h with h | h
          · exact .inl h
          · exact .inr (List.mem_cons_of_mem _ h)

variable {m}

theorem wf_nil : Memory.wf [] := List.Pairwise.nil

/-- `put` keeps the canonical form. -/
theorem wf_put (h : m.wf) : (m.put k v).wf := by
  induction m with
  | nil => simp [Memory.put, Memory.wf]
  | cons e m ih =>
    obtain ⟨k', v'⟩ := e
    obtain ⟨hhead, htail⟩ := List.pairwise_cons.1 h
    simp only [Memory.put]
    by_cases hk : k = k'
    · subst hk
      simpa [Memory.wf] using h
    · simp only [hk, if_false]
      by_cases hlt : keyLt k k' = true
      · simp only [hlt, if_true]
        refine List.pairwise_cons.2 ⟨fun f hf => ?_, h⟩
        rcases List.mem_cons.1 hf with rfl | hf
        · exact hlt
        · exact keyLt_trans hlt (hhead f hf)
      · rw [if_neg hlt]
        refine List.pairwise_cons.2 ⟨fun f hf => ?_, ih htail⟩
        rcases mem_put m k v hf with rfl | hf
        · exact keyLt_total hk (by simpa using hlt)
        · exact hhead f hf

/-- `putIfAbsent` keeps the canonical form. -/
theorem wf_putIfAbsent (h : m.wf) : (m.putIfAbsent k v).wf := by
  unfold Memory.putIfAbsent
  split
  · exact h
  · exact wf_put k v h

/-- A bank read keeps the canonical form. -/
theorem wf_readCreate (h : m.wf) : (m.readCreate v k).2.wf := by
  unfold Memory.readCreate
  split
  · exact h
  · exact wf_put k v h

/-- `put` of a key and a value of the right widths keeps the widths. -/
theorem sized_put {kw vw : Nat} (h : m.sized kw vw) (hk : k.length = kw) (hv : v.length = vw) :
    (m.put k v).sized kw vw := by
  refine ⟨wf_put k v h.1, fun e he => ?_⟩
  rcases mem_put m k v he with rfl | he
  · exact ⟨hk, hv⟩
  · exact h.2 e he

theorem sized_putIfAbsent {kw vw : Nat} (h : m.sized kw vw) (hk : k.length = kw)
    (hv : v.length = vw) : (m.putIfAbsent k v).sized kw vw := by
  unfold Memory.putIfAbsent
  split
  · exact h
  · exact sized_put k v h hk hv

theorem sized_readCreate {kw vw : Nat} (h : m.sized kw vw) (hk : k.length = kw)
    (hv : v.length = vw) : (m.readCreate v k).2.sized kw vw := by
  unfold Memory.readCreate
  split
  · exact h
  · exact sized_put k v h hk hv

/-- What is read is stored. -/
theorem mem_of_get {x : Bits} (h : m.get k = some x) : (k, x) ∈ m := by
  induction m with
  | nil => simp at h
  | cons e m ih =>
    obtain ⟨k', v'⟩ := e
    simp only [Memory.get] at h
    by_cases hk : k' = k
    · simp [hk] at h
      simp [hk, h]
    · simp [hk] at h
      exact List.mem_cons_of_mem _ (ih h)

/-- A space of the right widths reads a value of the right width at every key, in the total view (R35). -/
theorem total_width {kw vw : Nat} {d : Bits} (h : m.sized kw vw) (hd : d.length = vw) :
    (m.total d k).length = vw := by
  unfold Memory.total
  cases hg : m.get k with
  | none => simpa using hd
  | some x => exact (h.2 _ (mem_of_get k hg)).2

end Memory

/-- The spaces of the reset state are in canonical form. -/
theorem reset_pht_wf : State.reset.pht.wf := Memory.wf_nil

theorem reset_pabhr_wf : State.reset.pabhr.wf := Memory.wf_nil

theorem reset_psbhr_wf : State.reset.psbhr.wf := Memory.wf_nil

end Sys2Proof.Machine
end

