-- ==== Sys2Proof/Laws/Operands.lean ====
section
/-!
SUPPORT. The widths of what the combinational functions give (R35, R81, R87, R92).
-/

namespace Sys2Proof

@[simp] theorem zeros_length (n : Nat) : (zeros n).length = n := by simp [zeros]

@[simp] theorem ones_length (n : Nat) : (ones n).length = n := by simp [ones]

@[simp] theorem bv_length (n x : Nat) : (bv n x).length = n := by
  induction n with
  | zero => rfl
  | succ n ih => simp [bv, ih]

/-- The magnitude of a vector is below 2 to its width (R19). -/
theorem uint_lt (v : Bits) : uint v < 2 ^ v.length := by
  induction v with
  | nil => simp [uint]
  | cons b v ih =>
    have : b.toNat ≤ 1 := Bool.toNat_le b
    simp only [uint, List.length_cons, Nat.pow_succ]
    nlinarith

/-- `uint` is the inverse of `bv_n` on the numbers below `2^n` (R19). -/
theorem uint_bv {n x : Nat} (h : x < 2 ^ n) : uint (bv n x) = x := by
  suffices key : ∀ n x, uint (bv n x) = x % 2 ^ n by
    rw [key, Nat.mod_eq_of_lt h]
  intro n x
  induction n with
  | zero => simp [bv, uint, Nat.mod_one]
  | succ n ih =>
    simp only [bv, uint, bv_length, ih]
    rw [Nat.pow_succ, Nat.mod_mul]
    rcases Nat.mod_two_eq_zero_or_one (x / 2 ^ n) with h2 | h2
    · simp [h2]
    · simp [h2]
      omega

/-- A vector is the vector of its magnitude (R19). -/
theorem bv_uint (v : Bits) : bv v.length (uint v) = v := by
  suffices key : ∀ (v : Bits) (y : Nat), bv v.length (y * 2 ^ v.length + uint v) = v by
    simpa using key v 0
  intro v
  induction v with
  | nil => intro y; rfl
  | cons b v ih =>
    intro y
    have hlt := uint_lt v
    have hpos : 0 < 2 ^ v.length := Nat.two_pow_pos _
    have hq : (y * 2 ^ (v.length + 1) + (b.toNat * 2 ^ v.length + uint v)) / 2 ^ v.length
        = 2 * y + b.toNat := by
      rw [show y * 2 ^ (v.length + 1) + (b.toNat * 2 ^ v.length + uint v)
        = uint v + 2 ^ v.length * (2 * y + b.toNat) by ring, Nat.add_mul_div_left _ _ hpos,
        Nat.div_eq_of_lt hlt, Nat.zero_add]
    have htail := ih (2 * y + b.toNat)
    simp only [List.length_cons, bv, uint, hq]
    congr 1
    · cases b <;> simp
    · rw [show y * 2 ^ (v.length + 1) + (b.toNat * 2 ^ v.length + uint v)
        = (2 * y + b.toNat) * 2 ^ v.length + uint v by ring]
      exact htail

/-- Vectors of one width with one magnitude are equal. -/
theorem eq_of_uint_eq {x y : Bits} (hl : x.length = y.length) (hu : uint x = uint y) : x = y := by
  rw [← bv_uint x, ← bv_uint y, hl, hu]

namespace Machine

@[simp] theorem xorAt_length (v : Bits) (j : Nat) (b : Bool) : (xorAt v j b).length = v.length := by
  induction v generalizing j with
  | nil => rfl
  | cons x v ih => cases j <;> simp [xorAt, ih]

@[simp] theorem hashLoop_length (k i : Nat) (a out : Bits) :
    (hashLoop k i a out).length = out.length := by
  induction a generalizing i out with
  | nil => rfl
  | cons b a ih => simp [hashLoop, ih]

/-- `hash_K` gives K bits (R87). -/
@[simp] theorem hashK_length (k : Nat) (a : Bits) : (hashK k a).length = k := by simp [hashK]

/-- The shift-in keeps the width (R92). -/
@[simp] theorem shl1_length (r : Bits) (b : Bool) : (shl1 r b).length = r.length := by simp [shl1]

/-- `count` keeps the width (R81). -/
@[simp] theorem count_length (c : Bits) (t : Bool) : (count c t).length = c.length := by
  simp [count]

/-- The width of the address part of a PHT key (R111). -/
theorem keyPart_length (c : Config) (a : Bits) (h : a.length = c.n) :
    (keyPart c a).length + c.b = c.indexWidth := by
  unfold keyPart Config.indexWidth
  cases c.variant <;> simp [h]

end Machine

end Sys2Proof
end

