-- ==== Sys2Proof/Laws/State.lean ====
section
/-!
SUPPORT. What each update of the state does to each field: one lemma per field per update, so that no later proof
unfolds a record update.
-/

namespace Sys2Proof.Machine

variable (s : State)

/-! ## `State.setBhr` -/

@[simp] theorem State.setBhr_cfg (v : Bits) : (s.setBhr v).cfg = s.cfg := rfl
@[simp] theorem State.setBhr_bhr (v : Bits) : (s.setBhr v).bhr = v := rfl
@[simp] theorem State.setBhr_pabhr (v : Bits) : (s.setBhr v).pabhr = s.pabhr := rfl
@[simp] theorem State.setBhr_psbhr (v : Bits) : (s.setBhr v).psbhr = s.psbhr := rfl
@[simp] theorem State.setBhr_pht (v : Bits) : (s.setBhr v).pht = s.pht := rfl
@[simp] theorem State.setBhr_sc (v : Bits) : (s.setBhr v).sc = s.sc := rfl
@[simp] theorem State.setBhr_scValid (v : Bits) : (s.setBhr v).scValid = s.scValid := rfl
@[simp] theorem State.setBhr_scAddr (v : Bits) : (s.setBhr v).scAddr = s.scAddr := rfl
@[simp] theorem State.setBhr_input (v : Bits) : (s.setBhr v).input = s.input := rfl
@[simp] theorem State.setBhr_responses (v : Bits) : (s.setBhr v).responses = s.responses := rfl
@[simp] theorem State.setBhr_draws (v : Bits) : (s.setBhr v).draws = s.draws := rfl

/-! ## `State.setPabhr` -/

@[simp] theorem State.setPabhr_cfg (m : Memory) : (s.setPabhr m).cfg = s.cfg := rfl
@[simp] theorem State.setPabhr_bhr (m : Memory) : (s.setPabhr m).bhr = s.bhr := rfl
@[simp] theorem State.setPabhr_pabhr (m : Memory) : (s.setPabhr m).pabhr = m := rfl
@[simp] theorem State.setPabhr_psbhr (m : Memory) : (s.setPabhr m).psbhr = s.psbhr := rfl
@[simp] theorem State.setPabhr_pht (m : Memory) : (s.setPabhr m).pht = s.pht := rfl
@[simp] theorem State.setPabhr_sc (m : Memory) : (s.setPabhr m).sc = s.sc := rfl
@[simp] theorem State.setPabhr_scValid (m : Memory) : (s.setPabhr m).scValid = s.scValid := rfl
@[simp] theorem State.setPabhr_scAddr (m : Memory) : (s.setPabhr m).scAddr = s.scAddr := rfl
@[simp] theorem State.setPabhr_input (m : Memory) : (s.setPabhr m).input = s.input := rfl
@[simp] theorem State.setPabhr_responses (m : Memory) : (s.setPabhr m).responses = s.responses := rfl
@[simp] theorem State.setPabhr_draws (m : Memory) : (s.setPabhr m).draws = s.draws := rfl

/-! ## `State.setPsbhr` -/

@[simp] theorem State.setPsbhr_cfg (m : Memory) : (s.setPsbhr m).cfg = s.cfg := rfl
@[simp] theorem State.setPsbhr_bhr (m : Memory) : (s.setPsbhr m).bhr = s.bhr := rfl
@[simp] theorem State.setPsbhr_pabhr (m : Memory) : (s.setPsbhr m).pabhr = s.pabhr := rfl
@[simp] theorem State.setPsbhr_psbhr (m : Memory) : (s.setPsbhr m).psbhr = m := rfl
@[simp] theorem State.setPsbhr_pht (m : Memory) : (s.setPsbhr m).pht = s.pht := rfl
@[simp] theorem State.setPsbhr_sc (m : Memory) : (s.setPsbhr m).sc = s.sc := rfl
@[simp] theorem State.setPsbhr_scValid (m : Memory) : (s.setPsbhr m).scValid = s.scValid := rfl
@[simp] theorem State.setPsbhr_scAddr (m : Memory) : (s.setPsbhr m).scAddr = s.scAddr := rfl
@[simp] theorem State.setPsbhr_input (m : Memory) : (s.setPsbhr m).input = s.input := rfl
@[simp] theorem State.setPsbhr_responses (m : Memory) : (s.setPsbhr m).responses = s.responses := rfl
@[simp] theorem State.setPsbhr_draws (m : Memory) : (s.setPsbhr m).draws = s.draws := rfl

/-! ## `State.setPht` -/

@[simp] theorem State.setPht_cfg (m : Memory) : (s.setPht m).cfg = s.cfg := rfl
@[simp] theorem State.setPht_bhr (m : Memory) : (s.setPht m).bhr = s.bhr := rfl
@[simp] theorem State.setPht_pabhr (m : Memory) : (s.setPht m).pabhr = s.pabhr := rfl
@[simp] theorem State.setPht_psbhr (m : Memory) : (s.setPht m).psbhr = s.psbhr := rfl
@[simp] theorem State.setPht_pht (m : Memory) : (s.setPht m).pht = m := rfl
@[simp] theorem State.setPht_sc (m : Memory) : (s.setPht m).sc = s.sc := rfl
@[simp] theorem State.setPht_scValid (m : Memory) : (s.setPht m).scValid = s.scValid := rfl
@[simp] theorem State.setPht_scAddr (m : Memory) : (s.setPht m).scAddr = s.scAddr := rfl
@[simp] theorem State.setPht_input (m : Memory) : (s.setPht m).input = s.input := rfl
@[simp] theorem State.setPht_responses (m : Memory) : (s.setPht m).responses = s.responses := rfl
@[simp] theorem State.setPht_draws (m : Memory) : (s.setPht m).draws = s.draws := rfl

/-! ## `State.loadSC` -/

@[simp] theorem State.loadSC_cfg (a c : Bits) : (s.loadSC a c).cfg = s.cfg := rfl
@[simp] theorem State.loadSC_bhr (a c : Bits) : (s.loadSC a c).bhr = s.bhr := rfl
@[simp] theorem State.loadSC_pabhr (a c : Bits) : (s.loadSC a c).pabhr = s.pabhr := rfl
@[simp] theorem State.loadSC_psbhr (a c : Bits) : (s.loadSC a c).psbhr = s.psbhr := rfl
@[simp] theorem State.loadSC_pht (a c : Bits) : (s.loadSC a c).pht = s.pht := rfl
@[simp] theorem State.loadSC_sc (a c : Bits) : (s.loadSC a c).sc = c := rfl
@[simp] theorem State.loadSC_scValid (a c : Bits) : (s.loadSC a c).scValid = true := rfl
@[simp] theorem State.loadSC_scAddr (a c : Bits) : (s.loadSC a c).scAddr = a := rfl
@[simp] theorem State.loadSC_input (a c : Bits) : (s.loadSC a c).input = s.input := rfl
@[simp] theorem State.loadSC_responses (a c : Bits) : (s.loadSC a c).responses = s.responses := rfl
@[simp] theorem State.loadSC_draws (a c : Bits) : (s.loadSC a c).draws = s.draws := rfl

/-! ## `State.consumeSC` -/

@[simp] theorem State.consumeSC_cfg : (s.consumeSC).cfg = s.cfg := rfl
@[simp] theorem State.consumeSC_bhr : (s.consumeSC).bhr = s.bhr := rfl
@[simp] theorem State.consumeSC_pabhr : (s.consumeSC).pabhr = s.pabhr := rfl
@[simp] theorem State.consumeSC_psbhr : (s.consumeSC).psbhr = s.psbhr := rfl
@[simp] theorem State.consumeSC_pht : (s.consumeSC).pht = s.pht := rfl
@[simp] theorem State.consumeSC_sc : (s.consumeSC).sc = s.sc := rfl
@[simp] theorem State.consumeSC_scValid : (s.consumeSC).scValid = false := rfl
@[simp] theorem State.consumeSC_scAddr : (s.consumeSC).scAddr = s.scAddr := rfl
@[simp] theorem State.consumeSC_input : (s.consumeSC).input = s.input := rfl
@[simp] theorem State.consumeSC_responses : (s.consumeSC).responses = s.responses := rfl
@[simp] theorem State.consumeSC_draws : (s.consumeSC).draws = s.draws := rfl

/-! ## `State.respond` -/

@[simp] theorem State.respond_cfg (r : Response) : (s.respond r).cfg = s.cfg := rfl
@[simp] theorem State.respond_bhr (r : Response) : (s.respond r).bhr = s.bhr := rfl
@[simp] theorem State.respond_pabhr (r : Response) : (s.respond r).pabhr = s.pabhr := rfl
@[simp] theorem State.respond_psbhr (r : Response) : (s.respond r).psbhr = s.psbhr := rfl
@[simp] theorem State.respond_pht (r : Response) : (s.respond r).pht = s.pht := rfl
@[simp] theorem State.respond_sc (r : Response) : (s.respond r).sc = s.sc := rfl
@[simp] theorem State.respond_scValid (r : Response) : (s.respond r).scValid = s.scValid := rfl
@[simp] theorem State.respond_scAddr (r : Response) : (s.respond r).scAddr = s.scAddr := rfl
@[simp] theorem State.respond_input (r : Response) : (s.respond r).input = s.input := rfl
@[simp] theorem State.respond_responses (r : Response) : (s.respond r).responses = s.responses ++ [r] := rfl
@[simp] theorem State.respond_draws (r : Response) : (s.respond r).draws = s.draws := rfl

/-! ## `State.dropInput` -/

@[simp] theorem State.dropInput_cfg : (s.dropInput).cfg = s.cfg := rfl
@[simp] theorem State.dropInput_bhr : (s.dropInput).bhr = s.bhr := rfl
@[simp] theorem State.dropInput_pabhr : (s.dropInput).pabhr = s.pabhr := rfl
@[simp] theorem State.dropInput_psbhr : (s.dropInput).psbhr = s.psbhr := rfl
@[simp] theorem State.dropInput_pht : (s.dropInput).pht = s.pht := rfl
@[simp] theorem State.dropInput_sc : (s.dropInput).sc = s.sc := rfl
@[simp] theorem State.dropInput_scValid : (s.dropInput).scValid = s.scValid := rfl
@[simp] theorem State.dropInput_scAddr : (s.dropInput).scAddr = s.scAddr := rfl
@[simp] theorem State.dropInput_input : (s.dropInput).input = s.input.tail := rfl
@[simp] theorem State.dropInput_responses : (s.dropInput).responses = s.responses := rfl
@[simp] theorem State.dropInput_draws : (s.dropInput).draws = s.draws := rfl

/-! ## `State.issue` -/

@[simp] theorem State.issue_cfg (w : Bits) : (s.issue w).cfg = s.cfg := rfl
@[simp] theorem State.issue_bhr (w : Bits) : (s.issue w).bhr = s.bhr := rfl
@[simp] theorem State.issue_pabhr (w : Bits) : (s.issue w).pabhr = s.pabhr := rfl
@[simp] theorem State.issue_psbhr (w : Bits) : (s.issue w).psbhr = s.psbhr := rfl
@[simp] theorem State.issue_pht (w : Bits) : (s.issue w).pht = s.pht := rfl
@[simp] theorem State.issue_sc (w : Bits) : (s.issue w).sc = s.sc := rfl
@[simp] theorem State.issue_scValid (w : Bits) : (s.issue w).scValid = s.scValid := rfl
@[simp] theorem State.issue_scAddr (w : Bits) : (s.issue w).scAddr = s.scAddr := rfl
@[simp] theorem State.issue_input (w : Bits) : (s.issue w).input = .command w :: s.input := rfl
@[simp] theorem State.issue_responses (w : Bits) : (s.issue w).responses = s.responses := rfl
@[simp] theorem State.issue_draws (w : Bits) : (s.issue w).draws = s.draws := rfl

/-! ## `State.phtPut` -/

@[simp] theorem State.phtPut_cfg (i v : Bits) : (s.phtPut i v).cfg = s.cfg := rfl
@[simp] theorem State.phtPut_bhr (i v : Bits) : (s.phtPut i v).bhr = s.bhr := rfl
@[simp] theorem State.phtPut_pabhr (i v : Bits) : (s.phtPut i v).pabhr = s.pabhr := rfl
@[simp] theorem State.phtPut_psbhr (i v : Bits) : (s.phtPut i v).psbhr = s.psbhr := rfl
@[simp] theorem State.phtPut_pht (i v : Bits) : (s.phtPut i v).pht = s.pht.put i v := rfl
@[simp] theorem State.phtPut_sc (i v : Bits) : (s.phtPut i v).sc = s.sc := rfl
@[simp] theorem State.phtPut_scValid (i v : Bits) : (s.phtPut i v).scValid = s.scValid := rfl
@[simp] theorem State.phtPut_scAddr (i v : Bits) : (s.phtPut i v).scAddr = s.scAddr := rfl
@[simp] theorem State.phtPut_input (i v : Bits) : (s.phtPut i v).input = s.input := rfl
@[simp] theorem State.phtPut_responses (i v : Bits) : (s.phtPut i v).responses = s.responses := rfl
@[simp] theorem State.phtPut_draws (i v : Bits) : (s.phtPut i v).draws = s.draws := rfl

/-! ## `State.phtPutIfAbsent` -/

@[simp] theorem State.phtPutIfAbsent_cfg (i v : Bits) : (s.phtPutIfAbsent i v).cfg = s.cfg := rfl
@[simp] theorem State.phtPutIfAbsent_bhr (i v : Bits) : (s.phtPutIfAbsent i v).bhr = s.bhr := rfl
@[simp] theorem State.phtPutIfAbsent_pabhr (i v : Bits) : (s.phtPutIfAbsent i v).pabhr = s.pabhr := rfl
@[simp] theorem State.phtPutIfAbsent_psbhr (i v : Bits) : (s.phtPutIfAbsent i v).psbhr = s.psbhr := rfl
@[simp] theorem State.phtPutIfAbsent_pht (i v : Bits) : (s.phtPutIfAbsent i v).pht = s.pht.putIfAbsent i v := rfl
@[simp] theorem State.phtPutIfAbsent_sc (i v : Bits) : (s.phtPutIfAbsent i v).sc = s.sc := rfl
@[simp] theorem State.phtPutIfAbsent_scValid (i v : Bits) : (s.phtPutIfAbsent i v).scValid = s.scValid := rfl
@[simp] theorem State.phtPutIfAbsent_scAddr (i v : Bits) : (s.phtPutIfAbsent i v).scAddr = s.scAddr := rfl
@[simp] theorem State.phtPutIfAbsent_input (i v : Bits) : (s.phtPutIfAbsent i v).input = s.input := rfl
@[simp] theorem State.phtPutIfAbsent_responses (i v : Bits) : (s.phtPutIfAbsent i v).responses = s.responses := rfl
@[simp] theorem State.phtPutIfAbsent_draws (i v : Bits) : (s.phtPutIfAbsent i v).draws = s.draws := rfl

/-! ## `State.pabhrWrite` -/

@[simp] theorem State.pabhrWrite_cfg (k v : Bits) : (s.pabhrWrite k v).cfg = s.cfg := rfl
@[simp] theorem State.pabhrWrite_bhr (k v : Bits) : (s.pabhrWrite k v).bhr = s.bhr := rfl
@[simp] theorem State.pabhrWrite_pabhr (k v : Bits) : (s.pabhrWrite k v).pabhr = s.pabhr.put k v := rfl
@[simp] theorem State.pabhrWrite_psbhr (k v : Bits) : (s.pabhrWrite k v).psbhr = s.psbhr := rfl
@[simp] theorem State.pabhrWrite_pht (k v : Bits) : (s.pabhrWrite k v).pht = s.pht := rfl
@[simp] theorem State.pabhrWrite_sc (k v : Bits) : (s.pabhrWrite k v).sc = s.sc := rfl
@[simp] theorem State.pabhrWrite_scValid (k v : Bits) : (s.pabhrWrite k v).scValid = s.scValid := rfl
@[simp] theorem State.pabhrWrite_scAddr (k v : Bits) : (s.pabhrWrite k v).scAddr = s.scAddr := rfl
@[simp] theorem State.pabhrWrite_input (k v : Bits) : (s.pabhrWrite k v).input = s.input := rfl
@[simp] theorem State.pabhrWrite_responses (k v : Bits) : (s.pabhrWrite k v).responses = s.responses := rfl
@[simp] theorem State.pabhrWrite_draws (k v : Bits) : (s.pabhrWrite k v).draws = s.draws := rfl

/-! ## `State.psbhrWrite` -/

@[simp] theorem State.psbhrWrite_cfg (k v : Bits) : (s.psbhrWrite k v).cfg = s.cfg := rfl
@[simp] theorem State.psbhrWrite_bhr (k v : Bits) : (s.psbhrWrite k v).bhr = s.bhr := rfl
@[simp] theorem State.psbhrWrite_pabhr (k v : Bits) : (s.psbhrWrite k v).pabhr = s.pabhr := rfl
@[simp] theorem State.psbhrWrite_psbhr (k v : Bits) : (s.psbhrWrite k v).psbhr = s.psbhr.put k v := rfl
@[simp] theorem State.psbhrWrite_pht (k v : Bits) : (s.psbhrWrite k v).pht = s.pht := rfl
@[simp] theorem State.psbhrWrite_sc (k v : Bits) : (s.psbhrWrite k v).sc = s.sc := rfl
@[simp] theorem State.psbhrWrite_scValid (k v : Bits) : (s.psbhrWrite k v).scValid = s.scValid := rfl
@[simp] theorem State.psbhrWrite_scAddr (k v : Bits) : (s.psbhrWrite k v).scAddr = s.scAddr := rfl
@[simp] theorem State.psbhrWrite_input (k v : Bits) : (s.psbhrWrite k v).input = s.input := rfl
@[simp] theorem State.psbhrWrite_responses (k v : Bits) : (s.psbhrWrite k v).responses = s.responses := rfl
@[simp] theorem State.psbhrWrite_draws (k v : Bits) : (s.psbhrWrite k v).draws = s.draws := rfl

/-! ## The state after `State.pabhrRead` -/

@[simp] theorem State.pabhrRead_cfg (k : Bits) : (s.pabhrRead k).2.cfg = s.cfg := rfl
@[simp] theorem State.pabhrRead_bhr (k : Bits) : (s.pabhrRead k).2.bhr = s.bhr := rfl
@[simp] theorem State.pabhrRead_pabhr (k : Bits) : (s.pabhrRead k).2.pabhr = (s.pabhr.readCreate s.bankDefault k).2 := rfl
@[simp] theorem State.pabhrRead_psbhr (k : Bits) : (s.pabhrRead k).2.psbhr = s.psbhr := rfl
@[simp] theorem State.pabhrRead_pht (k : Bits) : (s.pabhrRead k).2.pht = s.pht := rfl
@[simp] theorem State.pabhrRead_sc (k : Bits) : (s.pabhrRead k).2.sc = s.sc := rfl
@[simp] theorem State.pabhrRead_scValid (k : Bits) : (s.pabhrRead k).2.scValid = s.scValid := rfl
@[simp] theorem State.pabhrRead_scAddr (k : Bits) : (s.pabhrRead k).2.scAddr = s.scAddr := rfl
@[simp] theorem State.pabhrRead_input (k : Bits) : (s.pabhrRead k).2.input = s.input := rfl
@[simp] theorem State.pabhrRead_responses (k : Bits) : (s.pabhrRead k).2.responses = s.responses := rfl
@[simp] theorem State.pabhrRead_draws (k : Bits) : (s.pabhrRead k).2.draws = s.draws := rfl

/-! ## The state after `State.psbhrRead` -/

@[simp] theorem State.psbhrRead_cfg (k : Bits) : (s.psbhrRead k).2.cfg = s.cfg := rfl
@[simp] theorem State.psbhrRead_bhr (k : Bits) : (s.psbhrRead k).2.bhr = s.bhr := rfl
@[simp] theorem State.psbhrRead_pabhr (k : Bits) : (s.psbhrRead k).2.pabhr = s.pabhr := rfl
@[simp] theorem State.psbhrRead_psbhr (k : Bits) : (s.psbhrRead k).2.psbhr = (s.psbhr.readCreate s.bankDefault k).2 := rfl
@[simp] theorem State.psbhrRead_pht (k : Bits) : (s.psbhrRead k).2.pht = s.pht := rfl
@[simp] theorem State.psbhrRead_sc (k : Bits) : (s.psbhrRead k).2.sc = s.sc := rfl
@[simp] theorem State.psbhrRead_scValid (k : Bits) : (s.psbhrRead k).2.scValid = s.scValid := rfl
@[simp] theorem State.psbhrRead_scAddr (k : Bits) : (s.psbhrRead k).2.scAddr = s.scAddr := rfl
@[simp] theorem State.psbhrRead_input (k : Bits) : (s.psbhrRead k).2.input = s.input := rfl
@[simp] theorem State.psbhrRead_responses (k : Bits) : (s.psbhrRead k).2.responses = s.responses := rfl
@[simp] theorem State.psbhrRead_draws (k : Bits) : (s.psbhrRead k).2.draws = s.draws := rfl

/-! ## The reset state and the reset input -/

variable (c : Config) (d : Nat)

@[simp] theorem State.resetOf_cfg : (State.resetOf c d).cfg = c := rfl
@[simp] theorem State.resetOf_bhr : (State.resetOf c d).bhr = zeros c.b := rfl
@[simp] theorem State.resetOf_pabhr : (State.resetOf c d).pabhr = [] := rfl
@[simp] theorem State.resetOf_psbhr : (State.resetOf c d).psbhr = [] := rfl
@[simp] theorem State.resetOf_pht : (State.resetOf c d).pht = [] := rfl
@[simp] theorem State.resetOf_scValid : (State.resetOf c d).scValid = false := rfl
@[simp] theorem State.resetOf_input : (State.resetOf c d).input = [] := rfl
@[simp] theorem State.resetOf_responses : (State.resetOf c d).responses = [] := rfl
@[simp] theorem State.resetOf_draws : (State.resetOf c d).draws = d + 2 := rfl

@[simp] theorem State.resetInput_cfg : s.resetInput.cfg = s.cfg := rfl
@[simp] theorem State.resetInput_bhr : s.resetInput.bhr = zeros s.cfg.b := rfl
@[simp] theorem State.resetInput_pabhr : s.resetInput.pabhr = [] := rfl
@[simp] theorem State.resetInput_psbhr : s.resetInput.psbhr = [] := rfl
@[simp] theorem State.resetInput_pht : s.resetInput.pht = [] := rfl
@[simp] theorem State.resetInput_scValid : s.resetInput.scValid = false := rfl
@[simp] theorem State.resetInput_input : s.resetInput.input = s.input := rfl
@[simp] theorem State.resetInput_responses : s.resetInput.responses = s.responses := rfl
@[simp] theorem State.resetInput_draws : s.resetInput.draws = s.draws + 2 := rfl

end Sys2Proof.Machine
end

