-- ==== Sys2Proof/Laws/Exec.lean ====
section
/-!
SUPPORT. What each shared operation of the meanings can do, said once: the checks of a command, the bank reads, and the
steps the seven `predict`s and the seven `update`s have in common.
-/

namespace Sys2Proof.Machine

variable {s t : State} {a : Bits} {v : Variant} {body : Result}

/-! ## The checks -/

/-- A command that passes the boundary checks is its body. -/
theorem onOperand_pass (hv : s.cfg.variant = v) (ha : a.length = s.cfg.n) :
    onOperand v a s body = body := by simp [onOperand, hv, ha]

/-- A command answers a next state only past the boundary checks. -/
theorem onOperand_next (h : onOperand v a s body = .next t) :
    s.cfg.variant = v ∧ a.length = s.cfg.n ∧ body = .next t := by
  unfold onOperand refuse at h
  split at h
  · cases h
  · split at h
    · cases h
    · exact ⟨not_not.1 ‹_›, not_not.1 ‹_›, h⟩

/-- A matched `update` is its body (R131). -/
theorem onMatch_pass (hv : s.scValid = true) (ha : s.scAddr = a) : onMatch a s body = body := by
  simp [onMatch, hv, ha]

/-- An `update` that does not match is refused (R131, R151). -/
theorem onMatch_refused (h : ¬(s.scValid = true ∧ s.scAddr = a)) :
    onMatch a s body = .refused (.protocolViolation a) := by
  unfold onMatch refuse
  rw [if_neg h]

/-- An `update` answers a next state only if it matches (R131). -/
theorem onMatch_next (h : onMatch a s body = .next t) :
    s.scValid = true ∧ s.scAddr = a ∧ body = .next t := by
  unfold onMatch refuse at h
  split at h
  · exact ⟨(‹_ ∧ _›).1, (‹_ ∧ _›).2, h⟩
  · cases h

/-! ## Bank reads (R53) -/

variable (s) (k : Bits)

@[simp] theorem pabhrRead_fst : (s.pabhrRead k).1 = s.pabhrT k := by
  simp [State.pabhrRead, State.pabhrT]

theorem pabhrRead_snd :
    (s.pabhrRead k).2 = s.setPabhr (s.pabhr.readCreate s.bankDefault k).2 := rfl

@[simp] theorem psbhrRead_fst : (s.psbhrRead k).1 = s.psbhrT k := by
  simp [State.psbhrRead, State.psbhrT]

theorem psbhrRead_snd :
    (s.psbhrRead k).2 = s.setPsbhr (s.psbhr.readCreate s.bankDefault k).2 := rfl

/-! ## The shared steps -/

/-- Steps 3 to 6 of `predict` always complete: the `get` finds the block that `putIfAbsent` has made present (R52). -/
theorem predictAt_eq (a idx : Bits) (writeBack : State → State) :
    predictAt a idx writeBack s =
      .next ((writeBack ((s.phtPutIfAbsent idx s.phtDefault).loadSC a (s.phtT idx))).respond
        (.predicted (predictionOf (s.phtT idx)))) := by
  have hget : (s.phtPutIfAbsent idx s.phtDefault).phtGet idx = some (s.phtT idx) := by
    simp [State.phtGet, State.phtPutIfAbsent, Memory.get_putIfAbsent, State.phtT]
  simp only [predictAt, hget]

/-- The steps that every `update` has always complete. -/
theorem updateAt_eq (o : BranchResult) (idx : Bits) (advance : Bits → State → State) :
    updateAt o idx advance s =
      .next (((advance (count s.sc o.isTaken)
        (s.phtPut idx (count s.sc o.isTaken))).consumeSC).respond .updated) := rfl

end Sys2Proof.Machine
end

