-- ==== Sys2Proof/Laws/PerInstr.lean ====
section
/-!
SUPPORT. What holds of every operation as syntax, one lemma per constructor.
-/

namespace Sys2Proof.Laws.WordShape

/-- The command word of an operation is the two header bits and its whole address (R68, R70). -/
def Statement (i : Instr) : Prop := (encode i).drop 2 = i.addr ∧ (encode i).length = i.addr.length + 2

theorem gagPredict (a : Bits) : Statement (.gagPredict a) := ⟨rfl, rfl⟩
theorem gagUpdate (a : Bits) (o : BranchResult) : Statement (.gagUpdate a o) := ⟨rfl, rfl⟩
theorem gasPredict (a : Bits) : Statement (.gasPredict a) := ⟨rfl, rfl⟩
theorem gasUpdate (a : Bits) (o : BranchResult) : Statement (.gasUpdate a o) := ⟨rfl, rfl⟩
theorem pagPredict (a : Bits) : Statement (.pagPredict a) := ⟨rfl, rfl⟩
theorem pagUpdate (a : Bits) (o : BranchResult) : Statement (.pagUpdate a o) := ⟨rfl, rfl⟩
theorem papPredict (a : Bits) : Statement (.papPredict a) := ⟨rfl, rfl⟩
theorem papUpdate (a : Bits) (o : BranchResult) : Statement (.papUpdate a o) := ⟨rfl, rfl⟩
theorem sagPredict (a : Bits) : Statement (.sagPredict a) := ⟨rfl, rfl⟩
theorem sagUpdate (a : Bits) (o : BranchResult) : Statement (.sagUpdate a o) := ⟨rfl, rfl⟩
theorem sapPredict (a : Bits) : Statement (.sapPredict a) := ⟨rfl, rfl⟩
theorem sapUpdate (a : Bits) (o : BranchResult) : Statement (.sapUpdate a o) := ⟨rfl, rfl⟩
theorem sasPredict (a : Bits) : Statement (.sasPredict a) := ⟨rfl, rfl⟩
theorem sasUpdate (a : Bits) (o : BranchResult) : Statement (.sasUpdate a o) := ⟨rfl, rfl⟩

end Sys2Proof.Laws.WordShape
end

