-- ==== Sys2Proof/Tests/Slice0.lean ====
section
/-!
SUPPORT. The model's own tests. Every expected value is copied from a vector of 95_test_vectors.md, named at the
test, or from a table of another section file; none is an answer of the model. The last part gives, for each statement
of Certificates/Slice0/Obligations.lean that has hypotheses, values that meet them together.
-/

namespace Sys2Proof.Tests

open Sys2Proof Sys2Proof.Machine

/-! ## Helpers -/

/-- N = 4, B = 2, W = 2, K = 2, the sizes of the vectors V24 to V50. -/
def cfg (v : Variant) : Config := { Config.initial with variant := v }

/-- A state of those sizes with nothing stored and nothing pending. -/
def st (v : Variant) : State :=
  { cfg := cfg v, bhr := zeros 2, pabhr := [], psbhr := [], pht := [], sc := zeros 2, scValid := false,
    scAddr := zeros 4, input := [], responses := [], draws := 0 }

/-- The same with a pending prediction of `a` whose block is `c`, read at the index `i`. -/
def pend (v : Variant) (a i c : Bits) : State :=
  { st v with pht := [(i, c)], sc := c, scValid := true, scAddr := a }

/-- The result is a next state with the property. -/
def next (r : Result) (p : State → Bool) : Bool :=
  match r with
  | .next t => p t
  | .fault _ => false
  | .refused _ => false

/-- The result is a refusal with the cause. -/
def refusedBy (r : Result) (c : Refusal) : Bool :=
  match r with
  | .next _ => false
  | .fault _ => false
  | .refused c' => c' == c

/-- The result is a next state. -/
theorem exists_of_next {r : Result} {p : State → Bool} (h : next r p = true) : ∃ t, r = .next t := by
  unfold next at h
  split at h
  · exact ⟨_, rfl⟩
  · cases h
  · cases h

/-- The last response given. -/
def answer (s : State) : Option Response := s.responses.getLast?

/-! ## Vectors, numbers (R18, R19) -/

theorem test_bv_leading_bit_first : bv 4 0b1010 = [true, false, true, false] := by decide
theorem test_uint_leading_bit_first : uint [true, false, false] = 4 ∧ uint [] = 0 := by decide
theorem test_ones_and_zeros : ones 3 = bv 3 0b111 ∧ zeros 3 = bv 3 0 := by decide

/-! ## Well-formed operations: each check refuses an ill-formed one -/

/-- The operation of another variant is refused (R73). -/
theorem test_wf_refuses_other_variant :
    (Instr.pagPredict (bv 4 0b1010)).ofVariant (cfg .GAg) = false ∧
    (Instr.pagPredict (bv 4 0b1010)).wf (cfg .GAg) = false := by decide
/-- An operand of another width is refused (V46a). -/
theorem test_wf_refuses_short_address :
    (Instr.gagPredict (bv 3 0b101)).addrFits (cfg .GAg) = false ∧
    (Instr.gagPredict (bv 3 0b101)).wf (cfg .GAg) = false := by decide
theorem test_wf_refuses_long_address : (Instr.gagUpdate (bv 5 0) .taken).wf (cfg .GAg) = false := by decide
theorem test_wf_accepts : (Instr.sasUpdate (bv 4 0b1000) .taken).wf (cfg .SAs) = true := by decide

/-! ## Decoding: the words of R68 and of the programs of 95_test_vectors.md section 3 -/

/-- P1a, commands 1, 2 and 6. -/
theorem test_decode_gag :
    decode (cfg .GAg) [false, false, true, false, true, false] = .ok (.gagPredict [true, false, true, false]) ∧
    decode (cfg .GAg) [true, true, true, false, true, false] =
      .ok (.gagUpdate [true, false, true, false] .taken) ∧
    decode (cfg .GAg) [true, false, true, false, true, false] =
      .ok (.gagUpdate [true, false, true, false] .notTaken) := by
  exact ⟨rfl, rfl, rfl⟩
/-- P5, commands 7 and 8. -/
theorem test_decode_gas :
    decode (cfg .GAs) [false, false, false, true, false, false] = .ok (.gasPredict [false, true, false, false]) ∧
    decode (cfg .GAs) [true, false, false, true, false, false] =
      .ok (.gasUpdate [false, true, false, false] .notTaken) := by
  exact ⟨rfl, rfl⟩
/-- P4, commands 3 and 5. -/
theorem test_decode_pag :
    decode (cfg .PAg) [false, false, false, false, false, true] = .ok (.pagPredict [false, false, false, true]) ∧
    decode (cfg .PAg) [true, true, false, false, false, true] =
      .ok (.pagUpdate [false, false, false, true] .taken) := by
  exact ⟨rfl, rfl⟩
/-- P3, commands 1 and 6 (N = 3). -/
theorem test_decode_pap :
    decode { cfg .PAp with n := 3 } [false, false, true, false, true] = .ok (.papPredict [true, false, true]) ∧
    decode { cfg .PAp with n := 3 } [true, false, true, false, true] =
      .ok (.papUpdate [true, false, true] .notTaken) := by
  exact ⟨rfl, rfl⟩
/-- The layout of R68 on an SAg instance. -/
theorem test_decode_sag :
    decode (cfg .SAg) [false, false, true, false, true, false] = .ok (.sagPredict [true, false, true, false]) ∧
    decode (cfg .SAg) [true, true, true, false, true, false] =
      .ok (.sagUpdate [true, false, true, false] .taken) := by
  exact ⟨rfl, rfl⟩
/-- The layout of R68 on an SAp instance; `PREDICT` ignores `actual` (R71). -/
theorem test_decode_sap :
    decode (cfg .SAp) [false, true, true, false, true, false] = .ok (.sapPredict [true, false, true, false]) ∧
    decode (cfg .SAp) [true, true, true, false, true, false] =
      .ok (.sapUpdate [true, false, true, false] .taken) := by
  exact ⟨rfl, rfl⟩
/-- P2, commands 3 and 2. -/
theorem test_decode_sas :
    decode (cfg .SAs) [false, false, false, true, false, false] = .ok (.sasPredict [false, true, false, false]) ∧
    decode (cfg .SAs) [true, true, true, false, false, false] =
      .ok (.sasUpdate [true, false, false, false] .taken) := by
  exact ⟨rfl, rfl⟩
/-- Any other number of bits is no word, and is rejected by name (R70, R77). -/
theorem test_decode_rejects :
    decode (cfg .GAg) [false, false, true] = .error (.addrWidth 1) ∧
    decode (cfg .GAg) [true] = .error (.noHeader 1) ∧ decode (cfg .GAg) [] = .error (.noHeader 0) := by
  exact ⟨rfl, rfl, rfl⟩
/-- The word of P1a, command 2. -/
theorem test_encode : encode (.gagUpdate (bv 4 0b1010) .taken) = bv 6 0b111010 := by decide
/-- The `match` and `mask` of the table's rows (R69). -/
theorem test_header : headerOf (bv 6 0b011010) = 0b01 ∧ headerOf (bv 6 0b111010) &&& headerMask = 0b10 := by decide
/-- The `match` words of the table's GAg rows, with an operand of zeros. -/
theorem test_decodeTableWord :
    decodeTableWord 8 0b00 = some (.gagPredict (bv 4 0)) ∧
    decodeTableWord 8 0b10 = some (.gagUpdate (bv 4 0) .notTaken) ∧ decodeTableWord 0 0 = none := by decide
/-- The same words run as the first command after reset: the `predict` completes (S2), the `update` has no `predict`
before it (R175). -/
theorem test_withFetchWord :
    next (step (State.reset.withFetchWord 8 0b00)) (fun t => answer t == some (.predicted .notTaken)) = true ∧
    refusedBy (step (State.reset.withFetchWord 8 0b10)) (.protocolViolation (bv 4 0)) = true := by decide

/-! ## Combinational functions -/

/-- V1 to V5, V7. -/
theorem test_count_steps :
    count (bv 2 0b00) true = bv 2 0b01 ∧ count (bv 2 0b01) true = bv 2 0b10 ∧
    count (bv 2 0b10) false = bv 2 0b01 ∧ count (bv 3 0b011) true = bv 3 0b100 ∧
    count (bv 3 0b100) false = bv 3 0b011 := by decide
/-- V3, V4, V6a to V6d, V8a, V8b. -/
theorem test_count_clamps :
    count (bv 2 0b11) true = bv 2 0b11 ∧ count (bv 2 0b00) false = bv 2 0b00 ∧
    count [true] true = [true] ∧ count [false] false = [false] ∧ count [false] true = [true] ∧
    count [true] false = [false] ∧ count (bv 3 0b111) true = bv 3 0b111 ∧
    count (bv 3 0b000) false = bv 3 0b000 := by decide
/-- The column "predicts" of V10, W = 2. -/
theorem test_predictionOf :
    predictionOf (bv 2 0b01) = .notTaken ∧ predictionOf (bv 2 0b10) = .taken := by decide
/-- V11 to V16. -/
theorem test_hash :
    hashK 2 (bv 4 0b1010) = bv 2 0b00 ∧ hashK 2 (bv 4 0b1000) = bv 2 0b10 ∧
    hashK 2 (bv 4 0b0110) = bv 2 0b11 ∧ hashK 3 (bv 5 0b10110) = bv 3 0b001 ∧
    hashK 4 (bv 4 0b1011) = bv 4 0b1011 ∧ hashK 5 (bv 3 0b101) = bv 5 0b10100 := by decide
/-- V18b, V19a, V19c, V19f, V30b. -/
theorem test_hash_corners :
    hashK 3 (bv 5 0b10111) = bv 3 0b011 ∧ hashK 1 (bv 4 0b1101) = [true] ∧
    hashK 1 (bv 4 0b1100) = [false] ∧ hashK 2 (bv 3 0b111) = bv 2 0b01 ∧
    hashK 3 (bv 4 0b1011) = bv 3 0b001 := by decide
/-- V20, V21, V22a to V22d. -/
theorem test_shl1 :
    shl1 (bv 3 0b011) false = bv 3 0b110 ∧ shl1 (bv 2 0b10) true = bv 2 0b01 ∧
    shl1 [false] true = [true] ∧ shl1 [true] false = [false] ∧
    shl1 (bv 3 0b111) true = bv 3 0b111 ∧ shl1 (bv 3 0b000) false = bv 3 0b000 := by decide
/-- V55, at the table. -/
theorem test_putIfAbsent :
    let k := bv 2 0b10
    let m := (Memory.putIfAbsent [] k (bv 2 0b01)).putIfAbsent k (bv 2 0b10)
    m.get k = some (bv 2 0b01) ∧ (m.put k (bv 2 0b10)).get k = some (bv 2 0b10) := by decide
/-- The canonical form holds whatever the order of the writes. -/
theorem test_put_is_canonical :
    Memory.put (Memory.put [] (bv 2 2) (bv 2 1)) (bv 2 1) (bv 2 3) =
      Memory.put (Memory.put [] (bv 2 1) (bv 2 3)) (bv 2 2) (bv 2 1) := by decide

/-- Every history register of the state holds `10`, whichever one serves `1011` (V24 to V30). -/
def histories (v : Variant) : State :=
  { st v with bhr := bv 2 0b10, pabhr := [(bv 4 0b1011, bv 2 0b10)], psbhr := [(bv 2 0b01, bv 2 0b10)] }
/-- V24 to V30: the bank key and the PHT index of `1011`. -/
theorem test_index :
    (histories .GAg).index (bv 4 0b1011) = bv 2 0b10 ∧ hrKey (cfg .GAg) (bv 4 0b1011) = none ∧
    (histories .GAs).index (bv 4 0b1011) = bv 4 0b0110 ∧ hrKey (cfg .GAs) (bv 4 0b1011) = none ∧
    (histories .PAg).index (bv 4 0b1011) = bv 2 0b10 ∧ hrKey (cfg .PAg) (bv 4 0b1011) = some (bv 4 0b1011) ∧
    (histories .PAp).index (bv 4 0b1011) = bv 6 0b101110 ∧ hrKey (cfg .PAp) (bv 4 0b1011) = some (bv 4 0b1011) ∧
    (histories .SAg).index (bv 4 0b1011) = bv 2 0b10 ∧ hrKey (cfg .SAg) (bv 4 0b1011) = some (bv 2 0b01) ∧
    (histories .SAp).index (bv 4 0b1011) = bv 6 0b101110 ∧ hrKey (cfg .SAp) (bv 4 0b1011) = some (bv 2 0b01) ∧
    (histories .SAs).index (bv 4 0b1011) = bv 4 0b0110 ∧
    hrKey (cfg .SAs) (bv 4 0b1011) = some (bv 2 0b01) := by decide

/-! ## One command each (V32, V34 to V41) -/

/-- What a `predict` of `a` must leave in the protocol state, and answer. -/
def predicted (t : State) (a c : Bits) (o : BranchResult) : Bool :=
  t.sc == c && t.scValid && t.scAddr == a && t.responses == [.predicted o]

/-- What an accepted `update` of a state with the table `m` must leave. -/
def updated (t : State) (m : Memory) : Bool :=
  t.pht == m && !t.scValid && t.responses == [.updated]

/-- V34a. -/
theorem test_gag_predict :
    next (exec (.gagPredict (bv 4 0b1010)) { st .GAg with bhr := bv 2 0b01, pht := [(bv 2 0b01, bv 2 0b10)] })
      (fun t => predicted t (bv 4 0b1010) (bv 2 0b10) .taken && t.bhr == bv 2 0b01) = true := by decide
/-- V34b: the mode `LOAD_COUNTER`. -/
theorem test_gag_update_load :
    next (exec (.gagUpdate (bv 4 0b1010) .taken)
        { pend .GAg (bv 4 0b1010) (bv 2 0b01) (bv 2 0b01) with bhr := bv 2 0b01 })
      (fun t => updated t [(bv 2 0b01, bv 2 0b10)] && t.bhr == bv 2 0b10) = true := by decide
/-- V35: the mode `SHIFT_OUTCOME`. -/
theorem test_gag_update_shift :
    next (exec (.gagUpdate (bv 4 0b1010) .taken)
        { pend .GAg (bv 4 0b1010) (bv 2 0b01) (bv 2 0b01) with
          bhr := bv 2 0b01, cfg := { cfg .GAg with gagHistMode := .shiftOutcome } })
      (fun t => updated t [(bv 2 0b01, bv 2 0b10)] && t.bhr == bv 2 0b11) = true := by decide
/-- V36a: the entry is absent and is created. -/
theorem test_gas_predict :
    next (exec (.gasPredict (bv 4 0b1000)) { st .GAs with bhr := bv 2 0b01 })
      (fun t => predicted t (bv 4 0b1000) (bv 2 0b00) .notTaken && t.pht == [(bv 4 0b1001, bv 2 0b00)]) =
      true := by decide
/-- V36b. -/
theorem test_gas_update :
    next (exec (.gasUpdate (bv 4 0b1000) .notTaken)
        { pend .GAs (bv 4 0b1000) (bv 4 0b1001) (bv 2 0b00) with bhr := bv 2 0b01 })
      (fun t => updated t [(bv 4 0b1001, bv 2 0b00)] && t.bhr == bv 2 0b10) = true := by decide
/-- V37a: the register is absent and is created. -/
theorem test_pag_predict :
    next (exec (.pagPredict (bv 4 0b1010)) { st .PAg with pht := [(bv 2 0b00, bv 2 0b01)] })
      (fun t => predicted t (bv 4 0b1010) (bv 2 0b01) .notTaken && t.pabhr == [(bv 4 0b1010, bv 2 0b00)]) =
      true := by decide
/-- V37b. -/
theorem test_pag_update :
    next (exec (.pagUpdate (bv 4 0b1010) .taken)
        { pend .PAg (bv 4 0b1010) (bv 2 0b11) (bv 2 0b10) with pabhr := [(bv 4 0b1010, bv 2 0b11)] })
      (fun t => updated t [(bv 2 0b11, bv 2 0b11)] && t.pabhr == [(bv 4 0b1010, bv 2 0b11)]) = true := by decide
/-- V38a. -/
theorem test_pap_predict :
    next (exec (.papPredict (bv 4 0b1010))
        { st .PAp with pabhr := [(bv 4 0b1010, bv 2 0b11)], pht := [(bv 6 0b101011, bv 2 0b11)] })
      (fun t => predicted t (bv 4 0b1010) (bv 2 0b11) .taken) = true := by decide
/-- V38b. -/
theorem test_pap_update :
    next (exec (.papUpdate (bv 4 0b1010) .notTaken)
        { pend .PAp (bv 4 0b1010) (bv 6 0b101011) (bv 2 0b11) with pabhr := [(bv 4 0b1010, bv 2 0b11)] })
      (fun t => updated t [(bv 6 0b101011, bv 2 0b10)] && t.pabhr == [(bv 4 0b1010, bv 2 0b10)]) =
      true := by decide
/-- V39a. -/
theorem test_sag_predict :
    next (exec (.sagPredict (bv 4 0b1010))
        { st .SAg with psbhr := [(bv 2 0b00, bv 2 0b10)], pht := [(bv 2 0b10, bv 2 0b01)] })
      (fun t => predicted t (bv 4 0b1010) (bv 2 0b01) .notTaken) = true := by decide
/-- V39b. -/
theorem test_sag_update :
    next (exec (.sagUpdate (bv 4 0b1010) .taken)
        { pend .SAg (bv 4 0b1010) (bv 2 0b10) (bv 2 0b01) with psbhr := [(bv 2 0b00, bv 2 0b10)] })
      (fun t => updated t [(bv 2 0b10, bv 2 0b10)] && t.psbhr == [(bv 2 0b00, bv 2 0b01)]) = true := by decide
/-- V40a. -/
theorem test_sap_predict :
    next (exec (.sapPredict (bv 4 0b1010))
        { st .SAp with psbhr := [(bv 2 0b00, bv 2 0b10)], pht := [(bv 6 0b101010, bv 2 0b10)] })
      (fun t => predicted t (bv 4 0b1010) (bv 2 0b10) .taken) = true := by decide
/-- V40b. -/
theorem test_sap_update :
    next (exec (.sapUpdate (bv 4 0b1010) .taken)
        { pend .SAp (bv 4 0b1010) (bv 6 0b101010) (bv 2 0b10) with psbhr := [(bv 2 0b00, bv 2 0b10)] })
      (fun t => updated t [(bv 6 0b101010, bv 2 0b11)] && t.psbhr == [(bv 2 0b00, bv 2 0b01)]) = true := by decide
/-- V41a. -/
theorem test_sas_predict :
    next (exec (.sasPredict (bv 4 0b1000))
        { st .SAs with psbhr := [(bv 2 0b10, bv 2 0b01)], pht := [(bv 4 0b1001, bv 2 0b11)] })
      (fun t => predicted t (bv 4 0b1000) (bv 2 0b11) .taken) = true := by decide
/-- V41b. -/
theorem test_sas_update :
    next (exec (.sasUpdate (bv 4 0b1000) .notTaken)
        { pend .SAs (bv 4 0b1000) (bv 4 0b1001) (bv 2 0b11) with psbhr := [(bv 2 0b10, bv 2 0b01)] })
      (fun t => updated t [(bv 4 0b1001, bv 2 0b10)] && t.psbhr == [(bv 2 0b10, bv 2 0b10)]) = true := by decide
/-- V32, the rows SAp and SAs: the first `predict` after construction. -/
theorem test_first_predict :
    next (exec (.sapPredict (bv 4 0b1011)) (State.resetOf (cfg .SAp) 0))
      (fun t => predicted t (bv 4 0b1011) (bv 2 0b00) .notTaken && t.psbhr.keys == [bv 2 0b01] &&
        t.pht.keys == [bv 6 0b101100]) = true ∧
    next (exec (.sasPredict (bv 4 0b1011)) (State.resetOf (cfg .SAs) 0))
      (fun t => t.psbhr.keys == [bv 2 0b01] && t.pht.keys == [bv 4 0b0100]) = true := by decide

/-! ## Refusals and the reset input -/

/-- V42. -/
theorem test_update_first_is_refused :
    refusedBy (exec (.pagUpdate (bv 4 0b1010) .taken) (State.resetOf (cfg .PAg) 0))
      (.protocolViolation (bv 4 0b1010)) = true := by decide
/-- V43: the `update` of an address other than the pending one. -/
theorem test_update_of_other_address_is_refused :
    refusedBy (exec (.gasUpdate (bv 4 0b1010) .taken) (pend .GAs (bv 4 0b0001) (bv 4 0b0100) (bv 2 0)))
      (.protocolViolation (bv 4 0b1010)) = true := by decide
/-- V46a, V46b: the width is checked before the protocol (R156). -/
theorem test_operand_width :
    refusedBy (exec (.papPredict (bv 3 0b101)) (st .PAp)) (.operandWidth 3) = true ∧
    refusedBy (exec (.papUpdate (bv 3 0b101) .taken) (pend .PAp (bv 4 0b1010) (bv 6 0b101000) (bv 2 0)))
      (.operandWidth 3) = true := by decide
/-- A command of another variant, which no word decodes to (R73). -/
theorem test_no_such_operation :
    refusedBy (exec (.gagPredict (bv 4 0)) (st .PAp)) (.noSuchOperation .GAg) = true := by decide
/-- P4, command 4: the refused `update` leaves the pending prediction, and the next one is accepted (command 5). -/
theorem test_serve_after_refusal :
    let s := ((pend .PAg (bv 4 0b0001) (bv 2 0) (bv 2 0)).issue (bv 6 0b110001)).issue (bv 6 0b111010)
    (serve s).responses = [.refused (.protocolViolation (bv 4 0b1010))] ∧ (serve s).scValid = true ∧
    (serve (serve s)).pht = [(bv 2 0b00, bv 2 0b01)] := by decide
/-- R168: the reset input. -/
theorem test_reset_input :
    next (step { pend .SAs (bv 4 0b1000) (bv 4 0b1001) (bv 2 3) with
        psbhr := [(bv 2 0b10, bv 2 0b01)], input := [.reset] })
      (fun t => !t.scValid && t.pht == [] && t.psbhr == [] && t.input == []) = true := by decide
/-- V45a to V45e. -/
theorem test_construct :
    refusedBy (construct { cfg .GAg with w := 3 }) (.configIllFormed .loadWidth) = true ∧
    next (construct { cfg .GAg with w := 3, gagHistMode := .shiftOutcome }) (fun t => t.pht == []) = true ∧
    refusedBy (construct { cfg .PAp with w := 0 }) (.configIllFormed .counterWidth) = true ∧
    refusedBy (construct { cfg .PAp with n := 0 }) (.configIllFormed .addrWidth) = true ∧
    refusedBy (construct { cfg .PAp with b := 0 }) (.configIllFormed .historyWidth) = true ∧
    refusedBy (construct { cfg .SAp with k := 0 }) (.configIllFormed .foldWidth) = true ∧
    next (construct { cfg .SAs with n := 2, k := 3 }) (fun t => !t.scValid) = true := by decide
/-- V46c. -/
theorem test_unsupported_modes :
    refusedBy (construct { cfg .GAg with countMode := .other 0 }) (.unsupportedMode (.count (.other 0))) = true ∧
    refusedBy (construct { cfg .GAg with hashMode := .other 1 }) (.unsupportedMode (.hash (.other 1))) = true := by
  decide
/-- R164: the snapshot shows the registers and the tables. -/
theorem test_monitor :
    (pend .GAg (bv 4 0b1010) (bv 2 0b01) (bv 2 0b11)).monitor.pht = [(bv 2 0b01, bv 2 0b11)] := by decide

/-! ## Witnesses

For each statement with hypotheses, values that meet all of them together; where it has several clauses, a value for
each, at the bounds of its range. -/

theorem test_witness_CountClampsAtBothBounds :
    bv 2 0b10 ≠ ones (bv 2 0b10).length ∧ bv 2 0b01 ≠ zeros (bv 2 0b01).length := by decide
theorem test_witness_CountObeysTheCounterLaws :
    1 ≤ (bv 2 0b01).length ∧ (bv 2 0b11).length = (bv 2 0b01).length ∧
    uint (bv 2 0b01) ≤ uint (bv 2 0b11) ∧
    uint (count (bv 2 0b11) true) = uint (bv 2 0b11) ∧ uint (count (bv 2 0) false) = uint (bv 2 0) := by decide
theorem test_witness_PredictionBitIsTheUpperHalf :
    1 ≤ (zeros 2).length ∧ pos ([true, true].foldl count (zeros 2)) 0 = true ∧ [true].length = 1 := by decide
theorem test_witness_HashBitIsXorOfItsContributors : 1 ≤ 2 ∧ 0 < 2 ∧ 1 < 2 := by decide
theorem test_witness_HashAtTheCornersOfTheFoldWidth :
    (bv 3 0b101).length ≤ 3 ∧ (bv 3 0b101).length ≤ 5 ∧ 1 ≤ 2 ∧
    (∀ x ∈ [bv 2 0b10, bv 2 0b11], x.length = 2) ∧
    (cfg .GAs).variant.usesFold = true ∧ ({ cfg .GAs with k := 0 } : Config).k = 0 := by decide
theorem test_witness_HashIsLinearAndBitSensitive :
    1 ≤ 2 ∧ (bv 4 0b1010).length = (bv 4 0b0110).length ∧ 0 < (bv 4 0b1010).length ∧
    3 < (bv 4 0b1010).length ∧ hashK 2 (bv 4 0b1010) = hashK 2 (bv 4 0b0101) := by decide
theorem test_witness_ShiftInDropsTheLeadingBit :
    1 ≤ (bv 3 0b011).length ∧ 0 + 1 < (bv 3 0b011).length ∧ 1 + 1 < (bv 3 0b011).length ∧
    [true].length = 1 := by decide
theorem test_witness_ShiftInsKeepTheLastOutcomes :
    (bv 2 0b10).length ≤ 2 ∧ ¬(bv 3 0b110).length ≤ 2 ∧
    (bv 3 0b101).length = (bv 3 0b000).length ∧ (bv 3 0b101).length ≤ (bv 3 0b110).length := by decide
theorem test_witness_PutIfAbsentNeverOverwrites :
    Memory.get [(bv 2 0, bv 2 1)] (bv 2 1) = none ∧
    Memory.present [(bv 2 0, bv 2 1)] (bv 2 0) = true := by decide
theorem test_witness_DecodeOfEncodeIsTheOperation :
    (Instr.gagPredict (bv 4 0b1010)).wf (cfg .GAg) = true ∧
    (Instr.papUpdate (bv 4 0b1111) .taken).wf (cfg .PAp) = true ∧
    (Instr.papUpdate (bv 4 0b1111) .taken).actual = some .taken := by decide
theorem test_witness_DecodedWordsAreWellFormedAndReencode :
    decode (cfg .SAg) (bv 6 0b101010) = .ok (.sagUpdate (bv 4 0b1010) .notTaken) ∧
    decode (cfg .SAg) (bv 6 0b011010) = .ok (.sagPredict (bv 4 0b1010)) ∧
    (Instr.sagUpdate (bv 4 0b1010) .notTaken).op = .update ∧
    (Instr.sagPredict (bv 4 0b1010)).op = .predict := by
  exact ⟨rfl, rfl, rfl, rfl⟩
theorem test_witness_HeaderMatchesTheOpcodeTable :
    decode (cfg .GAs) (bv 6 0b110001) = .ok (.gasUpdate (bv 4 0b0001) .taken) := by rfl
theorem test_witness_StepRunsTheDecodedCommand :
    ((st .GAs).issue (bv 6 0b110001)).input = [.command (bv 6 0b110001)] ∧
    decode ((st .GAs).issue (bv 6 0b110001)).cfg (bv 6 0b110001) = .ok (.gasUpdate (bv 4 0b0001) .taken) := by
  exact ⟨rfl, rfl⟩
theorem test_witness_StepWithoutInputLeavesTheState : (st .GAs).input = [] := by decide
theorem test_witness_ResetInputRestoresConstruction :
    ({ st .GAs with input := [.reset] } : State).input = .reset :: [] := by decide
theorem test_witness_ConstructedInstanceIsInTheResetState :
    (cfg .GAg).wf ∧ ({ cfg .SAs with n := 1, b := 1, w := 1, k := 1 } : Config).wf := by decide
/-- Each clause of R16 is the one reported by some construction, and no such configuration is well formed. -/
theorem test_witness_ConstructionAcceptsExactlyWellFormed :
    refusedBy (construct { cfg .GAg with w := 3 }) (.configIllFormed .loadWidth) = true ∧
    refusedBy (construct { cfg .PAp with n := 0 }) (.configIllFormed .addrWidth) = true ∧
    refusedBy (construct { cfg .PAp with b := 0 }) (.configIllFormed .historyWidth) = true ∧
    refusedBy (construct { cfg .PAp with w := 0 }) (.configIllFormed .counterWidth) = true ∧
    refusedBy (construct { cfg .GAs with k := 0 }) (.configIllFormed .foldWidth) = true ∧
    ¬({ cfg .GAs with k := 0 } : Config).wf ∧ ({ cfg .PAp with k := 0 } : Config).wf := by decide
theorem test_witness_UnsupportedModesAreRefusedFirst :
    ({ cfg .GAg with countMode := .other 0 } : Config).countMode ≠ .saturating ∧
    ({ cfg .GAg with hashMode := .other 0 } : Config).countMode = .saturating ∧
    ({ cfg .GAg with hashMode := .other 0 } : Config).hashMode ≠ .xor ∧
    (cfg .GAg).countMode = .saturating ∧ (cfg .GAg).hashMode = .xor := by decide
/-- Both modes unsupported, in a configuration that fails a clause of R16 too. -/
theorem test_witness_UnsupportedModesAreRefusedFirst_both :
    let c := { cfg .GAg with n := 0, countMode := .other 0, hashMode := .other 1 }
    c.countMode ≠ .saturating ∧ c.hashMode ≠ .xor ∧ ¬c.wf := by decide
theorem test_witness_InvariantHoldsAtConstruction : ∀ v, (cfg v).wf := by
  intro v; cases v <;> decide

/-- A state in the middle of a run of SAs: the prediction of `1000` is pending. -/
def midway : State :=
  { pend .SAs (bv 4 0b1000) (bv 4 0b1001) (bv 2 0b11) with
    psbhr := [(bv 2 0b10, bv 2 0b01)], pht := [(bv 4 0b0100, bv 2 0), (bv 4 0b1001, bv 2 0b11)] }
theorem test_midway_inv : midway.Inv := by constructor <;> decide
/-- The invariant and a step from it: an `update`, a `predict`, the reset input, and no input. -/
theorem test_witness_EveryStepKeepsTheInvariant :
    midway.Inv ∧ (∃ t, step (midway.issue (bv 6 0b111000)) = .next t) ∧
    (∃ t, step (midway.issue (bv 6 0b000100)) = .next t) ∧
    (∃ t, step { midway with input := [.reset] } = .next t) ∧ (∃ t, step midway = .next t) :=
  ⟨test_midway_inv, exists_of_next (p := fun _ => true) (by decide),
    exists_of_next (p := fun _ => true) (by decide), exists_of_next (p := fun _ => true) (by decide),
    exists_of_next (p := fun _ => true) (by decide)⟩
/-- The channels are no part of the invariant: it holds with a command waiting. -/
theorem test_issued_inv : (midway.issue (bv 6 0b111000)).Inv := by constructor <;> decide
theorem test_witness_NoStepChangesTheConfiguration :
    (midway.issue (bv 6 0b111000)).Inv ∧ ∃ t, step (midway.issue (bv 6 0b111000)) = .next t :=
  ⟨test_issued_inv, exists_of_next (p := fun _ => true) (by decide)⟩
/-- A command that adds an index and a key, and one that adds neither. -/
theorem test_witness_PresenceGrowsByOneIndexAndOneKey :
    (∃ t, exec (.sasPredict (bv 4 0b0111)) midway = .next t) ∧
    (∃ t, exec (.sasUpdate (bv 4 0b1000) .taken) midway = .next t) ∧
    (cfg .SAs).variant.hasPsbhr = true ∧ hrKey (cfg .SAs) (bv 4 0b0111) = some (bv 2 0b10) ∧
    (cfg .PAp).variant.hasPabhr = true ∧ hrKey (cfg .PAp) (bv 4 0b0111) = some (bv 4 0b0111) :=
  ⟨exists_of_next (p := fun _ => true) (by decide), exists_of_next (p := fun _ => true) (by decide),
    by decide, by decide, by decide, by decide⟩
theorem test_witness_GAgPredictReadsAtTheGlobalHistory :
    (st .GAg).cfg.variant = .GAg ∧ (bv 4 0b1010).length = (st .GAg).cfg.n := by decide
theorem test_witness_GAsPredictReadsAtSetAndGlobalHistory :
    (st .GAs).cfg.variant = .GAs ∧ (bv 4 0b1010).length = (st .GAs).cfg.n := by decide
theorem test_witness_PAgPredictReadsAtItsOwnHistory :
    (st .PAg).cfg.variant = .PAg ∧ (bv 4 0b1010).length = (st .PAg).cfg.n := by decide
theorem test_witness_PApPredictReadsItsOwnSubTable :
    (st .PAp).cfg.variant = .PAp ∧ (bv 4 0b1010).length = (st .PAp).cfg.n := by decide
theorem test_witness_SAgPredictReadsAtItsSetHistory :
    (st .SAg).cfg.variant = .SAg ∧ (bv 4 0b1010).length = (st .SAg).cfg.n := by decide
theorem test_witness_SApPredictReadsItsOwnSubTable :
    (st .SAp).cfg.variant = .SAp ∧ (bv 4 0b1010).length = (st .SAp).cfg.n := by decide
theorem test_witness_SAsPredictReadsTheSubTableOfItsSet :
    (st .SAs).cfg.variant = .SAs ∧ (bv 4 0b1010).length = (st .SAs).cfg.n := by decide
theorem test_witness_GAgUpdateCountsAndAdvancesByMode :
    let s := pend .GAg (bv 4 0b1010) (bv 2 0) (bv 2 0)
    s.cfg.variant = .GAg ∧ (bv 4 0b1010).length = s.cfg.n ∧ s.scValid = true ∧ s.scAddr = bv 4 0b1010 ∧
    s.cfg.gagHistMode = .loadCounter ∧
    ({ cfg .GAg with gagHistMode := .shiftOutcome } : Config).gagHistMode = .shiftOutcome := by
  decide
theorem test_witness_GAsUpdateCountsAndShiftsGlobalHistory :
    let s := pend .GAs (bv 4 0b1010) (bv 4 0) (bv 2 0)
    s.cfg.variant = .GAs ∧ (bv 4 0b1010).length = s.cfg.n ∧ s.scValid = true ∧ s.scAddr = bv 4 0b1010 := by
  decide
theorem test_witness_PAgUpdateCountsAndShiftsItsHistory :
    let s := pend .PAg (bv 4 0b1010) (bv 2 0) (bv 2 0)
    s.cfg.variant = .PAg ∧ (bv 4 0b1010).length = s.cfg.n ∧ s.scValid = true ∧ s.scAddr = bv 4 0b1010 := by
  decide
theorem test_witness_PApUpdateCountsInItsOwnSubTable :
    let s := pend .PAp (bv 4 0b1010) (bv 6 0b101000) (bv 2 0)
    s.cfg.variant = .PAp ∧ (bv 4 0b1010).length = s.cfg.n ∧ s.scValid = true ∧ s.scAddr = bv 4 0b1010 := by
  decide
theorem test_witness_SAgUpdateCountsAndShiftsItsSetHistory :
    let s := pend .SAg (bv 4 0b1010) (bv 2 0) (bv 2 0)
    s.cfg.variant = .SAg ∧ (bv 4 0b1010).length = s.cfg.n ∧ s.scValid = true ∧ s.scAddr = bv 4 0b1010 := by
  decide
theorem test_witness_SApUpdateCountsInItsOwnSubTable :
    let s := pend .SAp (bv 4 0b1010) (bv 6 0b101000) (bv 2 0)
    s.cfg.variant = .SAp ∧ (bv 4 0b1010).length = s.cfg.n ∧ s.scValid = true ∧ s.scAddr = bv 4 0b1010 := by
  decide
theorem test_witness_SAsUpdateCountsInTheSubTableOfItsSet :
    let s := pend .SAs (bv 4 0b1010) (bv 4 0) (bv 2 0)
    s.cfg.variant = .SAs ∧ (bv 4 0b1010).length = s.cfg.n ∧ s.scValid = true ∧ s.scAddr = bv 4 0b1010 := by
  decide
theorem test_witness_PredictsFollowTheGenericAlgorithm :
    (Instr.sapPredict (bv 4 0b1010)).wf (st .SAp).cfg = true ∧
    (Instr.sapPredict (bv 4 0b1010)).op = .predict := by decide
theorem test_witness_UpdatesFollowTheGenericAlgorithm :
    (Instr.sapUpdate (bv 4 0b1010) .taken).wf (st .SAp).cfg = true ∧
    (Instr.sapUpdate (bv 4 0b1010) .taken).actual = some .taken := by decide
theorem test_witness_PredictKeepsTheTotalView :
    (Instr.sasPredict (bv 4 0b0111)).op = .predict ∧ ∃ t, exec (.sasPredict (bv 4 0b0111)) midway = .next t :=
  ⟨rfl, exists_of_next (p := fun _ => true) (by decide)⟩
theorem test_witness_UpdateWritesOneEntryAndOneHistoryRegister :
    (Instr.sasUpdate (bv 4 0b1000) .taken).op = .update ∧
    (∃ t, exec (.sasUpdate (bv 4 0b1000) .taken) midway = .next t) ∧
    refusedBy (exec (.sasUpdate (bv 4 0b0111) .taken) midway) (.protocolViolation (bv 4 0b0111)) = true ∧
    midway.cfg.variant.hasBhr = false ∧ midway.cfg.variant.hasPabhr = false ∧
    (cfg .GAs).variant.hasPsbhr = false ∧
    hrKey midway.cfg (bv 4 0b1000) ≠ some (bv 2 0b11) ∧
    bv 4 0b0100 ≠ midway.index (bv 4 0b1000) :=
  ⟨rfl, exists_of_next (p := fun _ => true) (by decide), by decide, by decide, by decide, by decide,
    by decide, by decide⟩
theorem test_witness_UpdateCountsTheEntryItOverwrites :
    midway.Inv ∧ (Instr.sasUpdate (bv 4 0b1000) .taken).actual = some .taken ∧
    ∃ t, exec (.sasUpdate (bv 4 0b1000) .taken) midway = .next t :=
  ⟨test_midway_inv, rfl, exists_of_next (p := fun _ => true) (by decide)⟩
/-- Two predicts, and the update of the second. -/
theorem test_witness_IndexAtUpdateIsTheIndexAtPredict :
    let is := [Instr.sasPredict (bv 4 0b0111), .sasPredict (bv 4 0b1000)]
    (∀ i ∈ is, i.op = .predict) ∧ is ≠ [] ∧
    (Instr.sasUpdate (bv 4 0b1000) .taken).actual = some .taken ∧
    ∃ t v, execAll is midway = .next t ∧ exec (.sasUpdate (bv 4 0b1000) .taken) t = .next v := by
  refine ⟨by decide, by decide, rfl, ?_⟩
  obtain ⟨v, hv⟩ := exists_of_next (p := fun _ => true)
    (r := execAll [.sasPredict (bv 4 0b0111), .sasPredict (bv 4 0b1000), .sasUpdate (bv 4 0b1000) .taken] midway)
    (by decide)
  exact ⟨_, v, rfl, hv⟩
theorem test_witness_RepeatedPredictLeavesTheLastAlone :
    let i := Instr.sasPredict (bv 4 0b0111)
    let j := Instr.sasPredict (bv 4 0b1000)
    i.op = .predict ∧ j.op = .predict ∧ i.wf midway.cfg = true ∧ j.wf midway.cfg = true := by decide
theorem test_witness_UpdateIsAcceptedExactlyWhenItMatches :
    (Instr.sasUpdate (bv 4 0b1000) .taken).op = .update ∧
    (Instr.sasUpdate (bv 4 0b1000) .taken).wf midway.cfg = true := by decide
theorem test_witness_OperandWidthIsRefusedBeforeAnyStep :
    (Instr.sasUpdate (bv 3 0b101) .taken).variant = midway.cfg.variant ∧
    (Instr.sasUpdate (bv 3 0b101) .taken).addr.length ≠ midway.cfg.n ∧
    (midway.issue (true :: true :: bv 5 0)).input = .command (true :: true :: bv 5 0) :: [] ∧
    (bv 5 0).length ≠ (midway.issue (true :: true :: bv 5 0)).cfg.n ∧
    decode midway.cfg (bv 6 0b111000) = .ok (.sasUpdate (bv 4 0b1000) .taken) := by
  exact ⟨rfl, by decide, rfl, by decide, rfl⟩
theorem test_witness_RefusalDependsOnProtocolStateAlone :
    let t := { midway with pht := [], psbhr := [] }
    midway.cfg = t.cfg ∧ midway.scValid = t.scValid ∧ midway.scAddr = t.scAddr ∧ midway ≠ t := by decide
theorem test_witness_RefusedCommandChangesNoElement :
    refusedBy (step (midway.issue (bv 6 0b110111))) (.protocolViolation (bv 4 0b0111)) = true ∧
    (midway.issue (bv 6 0b110111)).input = .command (bv 6 0b110111) :: [] ∧
    decode midway.cfg (bv 6 0b110111) = .ok (.sasUpdate (bv 4 0b0111) .taken) ∧
    ¬(midway.scValid = true ∧ midway.scAddr = bv 4 0b0111) ∧
    (midway.issue (true :: true :: bv 3 0)).input = .command (true :: true :: bv 3 0) :: [] ∧
    (bv 3 0).length ≠ midway.cfg.n ∧ ¬({ cfg .GAg with w := 3 } : Config).wf := by
  exact ⟨by decide, rfl, rfl, by decide, rfl, by decide, by decide⟩
theorem test_witness_FirstPredictionIsNotTaken :
    (cfg .SAs).wf ∧ (Instr.sasPredict (bv 4 0b1000)).wf (cfg .SAs) = true ∧
    (Instr.sasPredict (bv 4 0b1000)).op = .predict ∧
    ({ st .SAs with psbhr := [(bv 2 0b10, bv 2 0b11)] } : State).cfg = cfg .SAs ∧
    ({ st .SAs with psbhr := [(bv 2 0b10, bv 2 0b11)] } : State).pht = [] := by decide
theorem test_witness_BranchPairIsAlwaysAccepted : (bv 4 0b1010).length = midway.cfg.n := by decide
/-- From `midway` a sequence that the ordering rule accepts, and one that it does not. -/
theorem test_witness_RunsAreAcceptedByTheOrderingRule :
    (∀ i ∈ [Instr.sasUpdate (bv 4 0b1000) .taken, .sasPredict (bv 4 0b0111)], i.wf midway.cfg = true) ∧
    acceptable midway.pending [Instr.sasUpdate (bv 4 0b1000) .taken, .sasPredict (bv 4 0b0111)] ∧
    ¬acceptable midway.pending [Instr.sasUpdate (bv 4 0b0111) .taken] :=
  ⟨by decide, ⟨by decide, trivial⟩, fun h => absurd h.1 (by decide)⟩

/-- The commands of V50 (GAs): two `predict`s, the `update` of the second, and a `predict`. -/
def v50 (p : Bits → Instr) (u : Bits → BranchResult → Instr) : List Instr :=
  [p (bv 4 0b1000), p (bv 4 0b0100), u (bv 4 0b0100) .taken, p (bv 4 0b1000)]
/-- Such a sequence is an episode of R174 and a tail. -/
theorem v50_legal {p : Bits → Instr} {u : Bits → BranchResult → Instr} (hp : ∀ a, (p a).op = .predict)
    (hu : ∀ a o, (u a o).op = .update) (hpa : ∀ a, (p a).addr = a) (hua : ∀ a o, (u a o).addr = a) :
    LegalRun (v50 p u) :=
  .episode [p (bv 4 0b1000)] (p (bv 4 0b0100)) (u (bv 4 0b0100) .taken) [p (bv 4 0b1000)]
    (by simp [hp]) (hp _) (hu _ _) (by rw [hpa, hua]) (.tail _ (by simp [hp]))
/-- A run whose first command is an `update` is not of the grammar (R175(a)). -/
theorem not_legal_update (u : Instr) (h : u.op = .update) : ¬LegalRun [u] := by
  suffices key : ∀ l, LegalRun l → l ≠ [u] from fun hl => key _ hl rfl
  intro l hl e
  cases hl with
  | nil => cases e
  | tail _ predicts =>
    subst e
    rw [predicts u (List.mem_singleton.2 rfl)] at h
    cases h
  | episode ps p v rest =>
    have := congrArg List.length e
    simp at this
    omega
theorem test_witness_LegalRunsAreExactlyTheGrammar :
    (cfg .GAs).wf ∧ (∀ i ∈ v50 .gasPredict .gasUpdate, i.wf (cfg .GAs) = true) ∧
    LegalRun (v50 .gasPredict .gasUpdate) ∧
    (∀ i ∈ [Instr.gasUpdate (bv 4 0) .taken], i.wf (cfg .GAs) = true) ∧
    ¬LegalRun [Instr.gasUpdate (bv 4 0) .taken] :=
  ⟨by decide, by decide, v50_legal (fun _ => rfl) (fun _ _ => rfl) (fun _ => rfl) (fun _ _ => rfl), by decide,
    not_legal_update _ rfl⟩
/-- Presence differs, the view does not. -/
theorem test_witness_TotalViewDeterminesEveryRun :
    SameView (st .SAs) { st .SAs with pht := [(bv 4 0, bv 2 0)] } ∧
    st .SAs ≠ { st .SAs with pht := [(bv 4 0, bv 2 0)] } ∧
    (∃ s', execAll (v50 .sasPredict .sasUpdate) (st .SAs) = .next s') ∧
    refusedBy (execAll [.sasUpdate (bv 4 0) .taken] (st .SAs)) (.protocolViolation (bv 4 0)) = true := by
  refine ⟨⟨rfl, rfl, fun _ => rfl, fun _ => rfl, fun k => ?_, rfl, rfl, rfl, rfl⟩, by decide,
    exists_of_next (p := fun _ => true) (by decide), by decide⟩
  by_cases h : bv 4 0 = k
  · simp [State.phtT, Memory.total, Memory.get, State.phtDefault, st, cfg, h]; rfl
  · simp [State.phtT, Memory.total, Memory.get, State.phtDefault, st, cfg, h]

/-- The commands of two branches of one address. -/
def twoBranches (a : Bits) : List Command :=
  [⟨.predict, a, .notTaken⟩, ⟨.update, a, .taken⟩, ⟨.predict, a, .notTaken⟩, ⟨.update, a, .notTaken⟩]
/-- They are two episodes of R174, whatever the variant. -/
theorem twoBranches_legal (v : Variant) (a : Bits) :
    LegalRun ((twoBranches a).map (Instr.ofCommand v)) := by
  cases v <;>
    exact .episode [] _ _ _ (by simp) rfl rfl rfl (.episode [] _ _ _ (by simp) rfl rfl rfl .nil)
/-- A related pair in the middle of a run, with the prediction of `1010` pending: the first clause. -/
theorem test_witness_PAgWithOneAddressIsGAgWithShift_step :
    OneAddressPair (bv 4 0b1010)
      { pend .GAg (bv 4 0b1010) (bv 2 0b01) (bv 2 0b10) with
        bhr := bv 2 0b01, cfg := { cfg .GAg with gagHistMode := .shiftOutcome } }
      { pend .PAg (bv 4 0b1010) (bv 2 0b01) (bv 2 0b10) with
        pabhr := [(bv 4 0b0001, bv 2 0b11), (bv 4 0b1010, bv 2 0b01)] } ∧
    (⟨.update, bv 4 0b1010, .taken⟩ : Command).addr = bv 4 0b1010 :=
  ⟨⟨rfl, rfl, rfl, rfl, rfl, rfl, by decide, fun _ => rfl, rfl, rfl, fun _ => rfl⟩, rfl⟩
theorem test_witness_PAgWithOneAddressIsGAgWithShift :
    let cg := { cfg .GAg with gagHistMode := .shiftOutcome }
    let cp := cfg .PAg
    cg.wf ∧ cp.wf ∧ cg.variant = .GAg ∧ cg.gagHistMode = .shiftOutcome ∧ cp.variant = .PAg ∧
    cg.n = cp.n ∧ cg.b = cp.b ∧ cg.w = cp.w ∧ (bv 4 0b1010).length = cg.n ∧
    (∀ x ∈ twoBranches (bv 4 0b1010), x.addr = bv 4 0b1010) ∧
    LegalRun ((twoBranches (bv 4 0b1010)).map (Instr.ofCommand .GAg)) := by
  refine ⟨by decide, by decide, rfl, rfl, rfl, rfl, rfl, rfl, by decide, by decide, twoBranches_legal _ _⟩
/-- A vector of four bits is its own fold for K = 4 (V15). -/
theorem hash_four : ∀ a : Bits, a.length = 4 → hashK 4 a = a
  | [w, x, y, z], _ => by revert w x y z; decide
/-- A related pair for K = N in the middle of a run, and one for K > N: the first clause. -/
theorem test_witness_WideFoldMakesSetsAddresses_step :
    RekeyedPair
      { pend .SAs (bv 4 0b1010) (bv 6 0b101001) (bv 2 0b10) with
        cfg := { cfg .SAs with k := 4 }, psbhr := [(bv 4 0b1010, bv 2 0b01)] }
      { pend .PAp (bv 4 0b1010) (bv 6 0b101001) (bv 2 0b10) with pabhr := [(bv 4 0b1010, bv 2 0b01)] } ∧
    RekeyedPair { st .SAg with cfg := { cfg .SAg with k := 5 } } (st .PAg) ∧
    RekeyedPair { st .SAp with cfg := { cfg .SAp with k := 5 } } (st .PAp) := by
  refine ⟨⟨.inr (.inr ⟨rfl, rfl⟩), rfl, rfl, rfl, by decide, fun a ha => ?_, fun a h ha => ?_, rfl, rfl,
    fun _ => rfl⟩, ?_, ?_⟩
  · exact congrArg (Memory.total (zeros 2) [(bv 4 0b1010, bv 2 0b01)]) (hash_four a ha)
  · exact congrArg (fun k => Memory.total (zeros 2) [(bv 6 0b101001, bv 2 0b10)] (k ++ h)) (hash_four a ha)
  · exact ⟨.inl ⟨rfl, rfl⟩, rfl, rfl, rfl, by decide, fun _ _ => rfl, fun _ _ _ => rfl, rfl, rfl, fun _ => rfl⟩
  · exact ⟨.inr (.inl ⟨rfl, rfl⟩), rfl, rfl, rfl, by decide, fun _ _ => rfl, fun _ _ _ => rfl, rfl, rfl,
      fun _ => rfl⟩
/-- K = N and K > N, for each of the three pairs of variants. -/
theorem test_witness_WideFoldMakesSetsAddresses :
    (∀ p ∈ [(Variant.SAg, Variant.PAg), (.SAp, .PAp), (.SAs, .PAp)], ∀ k ∈ [4, 5],
      let cs : Config := { cfg p.1 with k := k }
      cs.wf ∧ (cfg p.2).wf ∧
      (cs.variant = .SAg ∧ (cfg p.2).variant = .PAg ∨ cs.variant = .SAp ∧ (cfg p.2).variant = .PAp ∨
        cs.variant = .SAs ∧ (cfg p.2).variant = .PAp) ∧
      cs.n = (cfg p.2).n ∧ cs.b = (cfg p.2).b ∧ cs.w = (cfg p.2).w ∧ cs.n ≤ cs.k ∧
      ∀ x ∈ twoBranches (bv 4 0b1010), x.addr.length = cs.n) ∧
    ∀ v, LegalRun ((twoBranches (bv 4 0b1010)).map (Instr.ofCommand v)) :=
  ⟨by decide, fun v => twoBranches_legal v _⟩
/-- Two addresses of one set, and two of different sets (V19g), in a state of every variant. -/
theorem test_witness_SharingOfHistoriesAndEntriesByVariant :
    ∀ v ∈ [Variant.GAg, .GAs, .PAg, .PAp, .SAg, .SAp, .SAs],
      (bv 4 0b1000).length = (st v).cfg.n ∧ (bv 4 0b0010).length = (st v).cfg.n ∧
      (bv 4 0b0100).length = (st v).cfg.n ∧ bv 4 0b1000 ≠ bv 4 0b0010 ∧ bv 4 0b1000 ≠ bv 4 0b0100 ∧
      (st v).cfg.variant = v ∧
      hashK 2 (bv 4 0b1000) = hashK 2 (bv 4 0b0010) ∧ hashK 2 (bv 4 0b1000) ≠ hashK 2 (bv 4 0b0100) := by
  decide
theorem test_witness_EveryIndexAndKeyHasItsWidth :
    midway.Inv ∧ (bv 4 0b1010).length = midway.cfg.n := ⟨test_midway_inv, by decide⟩
/-- The first clause: an update, of an address that shares its register and of one that does not, and a predict. -/
theorem test_witness_HistoryIsTheLastOutcomesOfItsScope_step :
    ¬(midway.cfg.variant = .GAg ∧ midway.cfg.gagHistMode = .loadCounter) ∧
    (∃ t, exec (.sasUpdate (bv 4 0b1000) .taken) midway = .next t) ∧
    (∃ t, exec (.sasPredict (bv 4 0b0111)) midway = .next t) ∧
    hrKey midway.cfg (bv 4 0b1000) = hrKey midway.cfg (bv 4 0b0010) ∧
    hrKey midway.cfg (bv 4 0b1000) ≠ hrKey midway.cfg (bv 4 0b0100) :=
  ⟨by decide, exists_of_next (p := fun _ => true) (by decide), exists_of_next (p := fun _ => true) (by decide),
    by decide, by decide⟩
/-- For GAg in the mode that shifts, and for SAs. -/
theorem test_witness_HistoryIsTheLastOutcomesOfItsScope :
    let cg := { cfg .GAg with gagHistMode := .shiftOutcome }
    cg.wf ∧ ¬(cg.variant = .GAg ∧ cg.gagHistMode = .loadCounter) ∧ (bv 4 0b1010).length = cg.n ∧
    (∃ t, execAll (v50 .gagPredict .gagUpdate) (State.resetOf cg 0) = .next t) ∧
    (cfg .SAs).wf ∧ ¬((cfg .SAs).variant = .GAg ∧ (cfg .SAs).gagHistMode = .loadCounter) ∧
    (∃ t, execAll (v50 .sasPredict .sasUpdate) (State.resetOf (cfg .SAs) 0) = .next t) :=
  ⟨by decide, by decide, by decide, exists_of_next (p := fun _ => true) (by decide), by decide, by decide,
    exists_of_next (p := fun _ => true) (by decide)⟩
theorem test_witness_LoadedHistoryIsTheCounterWritten :
    (cfg .GAg).gagHistMode = .loadCounter ∧
    (∃ t, exec (.gagUpdate (bv 4 0b1010) .taken) (pend .GAg (bv 4 0b1010) (bv 2 0) (bv 2 0)) = .next t) ∧
    (∃ t, exec (.gagPredict (bv 4 0b1010)) (st .GAg) = .next t) ∧
    (∀ i ∈ [Instr.gagPredict (bv 4 0b1010)], i.op = .predict) ∧
    (∃ t, execAll [.gagPredict (bv 4 0b1010)] (State.resetOf (cfg .GAg) 0) = .next t) ∧
    (cfg .GAg).wf ∧ (cfg .GAg).variant = .GAg :=
  ⟨rfl, exists_of_next (p := fun _ => true) (by decide), exists_of_next (p := fun _ => true) (by decide),
    by decide, exists_of_next (p := fun _ => true) (by decide), by decide, rfl⟩

end Sys2Proof.Tests
end

/-!
SUPPORT. What construction answers (60_exceptions.md R149, R152, R156): the two checks it makes, each characterised
once, and the statement O19 about it.
-/

namespace Sys2Proof.Machine

variable {c : Config} {p : ConfigClause}

/-- The variants that fold the address (R12). -/
theorem usesFold_iff (v : Variant) :
    v.usesFold = true ↔ v = .GAs ∨ v = .SAg ∨ v = .SAp ∨ v = .SAs := by
  cases v <;> decide

/-- The mode check passes exactly on the two supported modes (R13). -/
theorem unsupported_eq_none_iff :
    unsupported c = none ↔ c.countMode = .saturating ∧ c.hashMode = .xor := by
  unfold unsupported
  by_cases hc : c.countMode = .saturating <;> by_cases hh : c.hashMode = .xor <;> simp [hc, hh]

/-- The clause reported is one that the configuration fails (R149). -/
theorem clauseFails_of_failedClause (h : failedClause c = some p) : clauseFails c p := by
  unfold failedClause at h
  split_ifs at h <;> cases h <;> assumption

/-- No clause is reported exactly when none fails (R16). -/
theorem failedClause_eq_none_iff : failedClause c = none ↔ ∀ p, ¬clauseFails c p := by
  constructor
  · intro h p hp
    unfold failedClause at h
    split_ifs at h
    cases p <;> exact absurd hp ‹_›
  · intro h
    cases hf : failedClause c with
    | none => rfl
    | some p => exact absurd (clauseFails_of_failedClause hf) (h p)

/-- R16, read clause by clause. -/
theorem wf_iff_no_clauseFails :
    c.wf ↔ (c.countMode = .saturating ∧ c.hashMode = .xor) ∧ ∀ p, ¬clauseFails c p := by
  constructor
  · rintro ⟨hn, hb, hw, hk, hcount, hhash, hload⟩
    refine ⟨⟨hcount, hhash⟩, fun p hp => ?_⟩
    cases p with
    | addrWidth => exact Nat.ne_of_gt hn hp
    | historyWidth => exact Nat.ne_of_gt hb hp
    | counterWidth => exact Nat.ne_of_gt hw hp
    | foldWidth =>
      obtain ⟨hfold, hzero⟩ := hp
      exact Nat.ne_of_gt (hk hfold) hzero
    | loadWidth =>
      obtain ⟨hgag, hmode, hne⟩ := hp
      exact hne (hload hgag hmode)
  · rintro ⟨⟨hcount, hhash⟩, h⟩
    exact ⟨Nat.pos_of_ne_zero (h .addrWidth), Nat.pos_of_ne_zero (h .historyWidth),
      Nat.pos_of_ne_zero (h .counterWidth),
      fun hf => Nat.pos_of_ne_zero fun hk => h .foldWidth ⟨hf, hk⟩, hcount, hhash,
      fun hv hm => by_contra fun hbw => h .loadWidth ⟨hv, hm, hbw⟩⟩

/-- Construction completes exactly when both checks pass (R166). -/
theorem construct_next_iff :
    (∃ t, construct c = .next t) ↔ unsupported c = none ∧ failedClause c = none := by
  unfold construct refuse
  cases unsupported c <;> cases failedClause c <;> simp

/-- `ConfigIllFormed` is the answer exactly when the modes are supported and its clause is the one found (R156). -/
theorem construct_configIllFormed_iff :
    construct c = .refused (.configIllFormed p) ↔ unsupported c = none ∧ failedClause c = some p := by
  unfold construct refuse
  cases unsupported c <;> cases failedClause c <;> simp

/-- Construction completes exactly for a well-formed configuration (R16). -/
theorem construct_next_iff_wf : (∃ t, construct c = .next t) ↔ c.wf := by
  rw [construct_next_iff, unsupported_eq_none_iff, failedClause_eq_none_iff, wf_iff_no_clauseFails]

/-- Settles O19, from what each of the two checks of construction decides. -/
theorem constructionAcceptsExactlyWellFormed :
    Obligations.ConstructionAcceptsExactlyWellFormed := by
  intro c
  refine ⟨?_, fun p h => ?_, fun hcount hhash hwf => ?_⟩
  · rw [← usesFold_iff]
    exact construct_next_iff_wf
  · exact clauseFails_of_failedClause (construct_configIllFormed_iff.1 h).2
  · have hmodes := unsupported_eq_none_iff.2 ⟨hcount, hhash⟩
    cases hf : failedClause c with
    | some p => exact ⟨p, construct_configIllFormed_iff.2 ⟨hmodes, hf⟩⟩
    | none => exact absurd (construct_next_iff_wf.1 (construct_next_iff.2 ⟨hmodes, hf⟩)) hwf

end Sys2Proof.Machine

/-!
SUPPORT. What a command and a step can do, said once for all seven variants: the state after an accepted `predict`
(R114) and after an accepted `update` (R129) over `HR` and `index`, and the inversions of `exec` and `step`.
-/

namespace Sys2Proof.Machine

variable {s t : State} {i : Instr} {a : Bits} {o : BranchResult} {v : Variant} {body body' : Result}

/-- The state after an accepted `predict(a)`, for the variant of the configuration (R114). For a global register the
write-back is of the register's own content, and so no change. -/
def State.afterPredict (s : State) (a : Bits) : State :=
  ((((s.hrRead a).2.phtPutIfAbsent (s.index a) s.phtDefault).loadSC a (s.phtT (s.index a))).hrWrite a
    (s.hr a)).respond (.predicted (predictionOf (s.phtT (s.index a))))

/-- The state after an accepted `update(a, o)`, for the variant of the configuration (R129). -/
def State.afterUpdate (s : State) (a : Bits) (o : BranchResult) : State :=
  ((((s.hrRead a).2.phtPut (s.index a) (count s.sc o.isTaken)).hrWrite a
    (advanced s.cfg (s.hr a) (count s.sc o.isTaken) o)).consumeSC).respond .updated

/-- The body of a command may be rewritten by what the variant check says. -/
theorem onOperand_congr (h : s.cfg.variant = v → body = body') :
    onOperand v a s body = onOperand v a s body' := by
  unfold onOperand
  split
  · rfl
  · rw [h (not_not.1 ‹_›)]

@[simp] theorem pabhrRead_phtT (k q : Bits) : (s.pabhrRead k).2.phtT q = s.phtT q := rfl
@[simp] theorem psbhrRead_phtT (k q : Bits) : (s.psbhrRead k).2.phtT q = s.phtT q := rfl
@[simp] theorem pabhrRead_phtDefault (k : Bits) : (s.pabhrRead k).2.phtDefault = s.phtDefault := rfl
@[simp] theorem psbhrRead_phtDefault (k : Bits) : (s.psbhrRead k).2.phtDefault = s.phtDefault := rfl

/-! ## Commands -/

/-- A `predict` past the boundary checks always completes, in `afterPredict`: the seven meanings of R115 to R121 are
the one algorithm of R114. -/
theorem exec_predict (h : i.actual = none) :
    exec i s = onOperand i.variant i.addr s (.next (s.afterPredict i.addr)) := by
  cases i <;> cases h
  all_goals
    refine onOperand_congr fun hv => ?_
    rw [predictAt_eq]
    simp [State.afterPredict, State.hrRead, State.hrWrite, State.index, State.hr, keyPart, Instr.addr, hv]
  -- for a global register `afterPredict` writes `BHR` back with its own content, which changes nothing
  case gagPredict | gasPredict => rfl

/-- An `update` past the boundary checks completes in `afterUpdate` if it matches: the seven meanings of R134 to R142
are the one algorithm of R129. -/
theorem exec_update (h : i.actual = some o) :
    exec i s = onOperand i.variant i.addr s (onMatch i.addr s (.next (s.afterUpdate i.addr o))) := by
  cases i <;> cases h
  all_goals
    refine onOperand_congr fun hv => congrArg (onMatch _ s) ?_
    rw [updateAt_eq]
    simp [State.afterUpdate, State.hrRead, State.hrWrite, State.index, State.hr, keyPart, Instr.addr,
      advanced, hv]
  case gagUpdate => cases hm : s.cfg.gagHistMode <;> simp [gagAdvance, hm]

/-- Everything an accepted command can be and do: it is of the configured variant with an N-bit address, and it is a
`predict`, or an `update` that matches (R131). -/
theorem exec_next_cases (h : exec i s = .next t) :
    s.cfg.variant = i.variant ∧ i.addr.length = s.cfg.n ∧
      (i.actual = none ∧ t = s.afterPredict i.addr ∨
        ∃ o, i.actual = some o ∧ s.scValid = true ∧ s.scAddr = i.addr ∧ t = s.afterUpdate i.addr o) := by
  cases ho : i.actual with
  | none =>
    rw [exec_predict ho] at h
    obtain ⟨hv, hn, hbody⟩ := onOperand_next h
    cases hbody
    exact ⟨hv, hn, .inl ⟨rfl, rfl⟩⟩
  | some o =>
    rw [exec_update ho] at h
    obtain ⟨hv, hn, hbody⟩ := onOperand_next h
    obtain ⟨hvalid, haddr, hbody⟩ := onMatch_next hbody
    cases hbody
    exact ⟨hv, hn, .inr ⟨o, rfl, hvalid, haddr, rfl⟩⟩

/-! ## Steps -/

/-- Everything a step that answers a next state can do: nothing without an input, the reset input, or an accepted
command. -/
theorem step_next_cases (h : step s = .next t) :
    s.input = [] ∧ t = s ∨
    (∃ r, s.input = .reset :: r ∧ t = s.dropInput.resetInput) ∨
    ∃ w r i, s.input = .command w :: r ∧ decode s.cfg w = .ok i ∧ exec i s.dropInput = .next t := by
  unfold step refuse at h
  split at h
  next hin =>
    cases h
    exact .inl ⟨hin, rfl⟩
  next r hin =>
    cases h
    exact .inr (.inl ⟨r, hin, rfl⟩)
  next w r hin =>
    split at h
    next i hd => exact .inr (.inr ⟨w, r, i, hin, hd, h⟩)
    next => cases h

end Sys2Proof.Machine

/-!
SUPPORT. What no step changes (00_scope.md R17): the configuration, kept by every step from any state, and the widths
of R35, kept by each operation of the state and so by every step; and the statement O23.
-/

namespace Sys2Proof.Machine

variable {s t : State} {i : Instr} {a : Bits}

/-! ## The configuration -/

@[simp] theorem hrRead_cfg (a : Bits) : (s.hrRead a).2.cfg = s.cfg := by
  unfold State.hrRead
  split <;> rfl

@[simp] theorem hrWrite_cfg (a v : Bits) : (s.hrWrite a v).cfg = s.cfg := by
  unfold State.hrWrite
  split <;> rfl

@[simp] theorem afterPredict_cfg (a : Bits) : (s.afterPredict a).cfg = s.cfg := by
  simp [State.afterPredict]

@[simp] theorem afterUpdate_cfg (a : Bits) (o : BranchResult) : (s.afterUpdate a o).cfg = s.cfg := by
  simp [State.afterUpdate]

/-- No command changes a parameter (R17). -/
theorem exec_cfg (h : exec i s = .next t) : t.cfg = s.cfg := by
  obtain ⟨-, -, ⟨-, rfl⟩ | ⟨o, -, -, -, rfl⟩⟩ := exec_next_cases h
  · exact afterPredict_cfg _
  · exact afterUpdate_cfg _ o

/-- No step changes a parameter (R17, R168). -/
theorem step_cfg (h : step s = .next t) : t.cfg = s.cfg := by
  obtain ⟨-, rfl⟩ | ⟨r, -, rfl⟩ | ⟨w, r, i, -, -, hexec⟩ := step_next_cases h
  · rfl
  · rfl
  · rw [exec_cfg hexec, State.dropInput_cfg]

/-! ## The widths -/

/-- The part of the invariant `State.Inv` that speaks of widths (R35): every register, and every key and value of every
space. -/
structure State.Widths (s : State) : Prop where
  bhr : s.bhr.length = s.cfg.b
  pabhr : s.pabhr.sized s.cfg.n s.cfg.b
  psbhr : s.psbhr.sized s.cfg.k s.cfg.b
  pht : s.pht.sized s.cfg.indexWidth s.cfg.w
  sc : s.sc.length = s.cfg.w
  scAddr : s.scAddr.length = s.cfg.n

theorem State.Inv.widths (h : s.Inv) : s.Widths :=
  ⟨h.bhr_width, h.pabhr_sized, h.psbhr_sized, h.pht_sized, h.sc_width, h.scAddr_width⟩

theorem Memory.sized_nil (kw vw : Nat) : Memory.sized kw vw [] := ⟨Memory.wf_nil, by simp⟩

namespace State.Widths

/-! ### What a state of the right widths reads -/

theorem pabhrT_length (h : s.Widths) (k : Bits) : (s.pabhrT k).length = s.cfg.b :=
  Memory.total_width k h.pabhr (zeros_length _)

theorem psbhrT_length (h : s.Widths) (k : Bits) : (s.psbhrT k).length = s.cfg.b :=
  Memory.total_width k h.psbhr (zeros_length _)

theorem phtT_length (h : s.Widths) (k : Bits) : (s.phtT k).length = s.cfg.w :=
  Memory.total_width k h.pht (zeros_length _)

/-- The history register that serves an address has B bits (R99). -/
theorem hr_length (h : s.Widths) (a : Bits) : (s.hr a).length = s.cfg.b := by
  unfold State.hr
  split <;> simp only [h.bhr, h.pabhrT_length, h.psbhrT_length]

/-- The index of an N-bit address has the width of a PHT index (R111). -/
theorem index_length (h : s.Widths) (ha : a.length = s.cfg.n) :
    (s.index a).length = s.cfg.indexWidth := by
  rw [State.index, List.length_append, h.hr_length, keyPart_length _ _ ha]

/-! ### What keeps the widths -/

variable {k v : Bits}

theorem setBhr (h : s.Widths) (hv : v.length = s.cfg.b) : (s.setBhr v).Widths :=
  { h with bhr := hv }

theorem setPabhr {m : Memory} (h : s.Widths) (hm : m.sized s.cfg.n s.cfg.b) : (s.setPabhr m).Widths :=
  { h with pabhr := hm }

theorem setPsbhr {m : Memory} (h : s.Widths) (hm : m.sized s.cfg.k s.cfg.b) : (s.setPsbhr m).Widths :=
  { h with psbhr := hm }

theorem setPht {m : Memory} (h : s.Widths) (hm : m.sized s.cfg.indexWidth s.cfg.w) :
    (s.setPht m).Widths :=
  { h with pht := hm }

theorem loadSC (h : s.Widths) (hk : k.length = s.cfg.n) (hv : v.length = s.cfg.w) :
    (s.loadSC k v).Widths :=
  { h with sc := hv, scAddr := hk }

theorem consumeSC (h : s.Widths) : s.consumeSC.Widths := { h with }

theorem respond (h : s.Widths) (r : Response) : (s.respond r).Widths := { h with }

theorem dropInput (h : s.Widths) : s.dropInput.Widths := { h with }

/-- The lazy creation of a bank register keeps the widths (R53). -/
theorem hrRead (h : s.Widths) (ha : a.length = s.cfg.n) : (s.hrRead a).2.Widths := by
  have hset : (s.psbhrRead (hashK s.cfg.k a)).2.Widths :=
    h.setPsbhr (Memory.sized_readCreate _ _ h.psbhr (hashK_length _ _) (zeros_length _))
  have haddr : (s.pabhrRead a).2.Widths :=
    h.setPabhr (Memory.sized_readCreate _ _ h.pabhr ha (zeros_length _))
  unfold State.hrRead
  split <;> assumption

/-- A write of B bits to the history register that serves an address keeps the widths (R54, R94). -/
theorem hrWrite (h : s.Widths) (ha : a.length = s.cfg.n) (hv : v.length = s.cfg.b) :
    (s.hrWrite a v).Widths := by
  have hglobal : (s.setBhr v).Widths := h.setBhr hv
  have haddr : (s.pabhrWrite a v).Widths := h.setPabhr (Memory.sized_put _ _ h.pabhr ha hv)
  have hset : (s.psbhrWrite (hashK s.cfg.k a) v).Widths :=
    h.setPsbhr (Memory.sized_put _ _ h.psbhr (hashK_length _ _) hv)
  unfold State.hrWrite
  split <;> assumption

/-- An accepted `predict` keeps the widths: its index and its block have theirs. -/
theorem afterPredict (h : s.Widths) (ha : a.length = s.cfg.n) : (s.afterPredict a).Widths := by
  have hpht : ((s.hrRead a).2.phtPutIfAbsent (s.index a) s.phtDefault).Widths :=
    (h.hrRead ha).setPht (Memory.sized_putIfAbsent _ _ (h.hrRead ha).pht
      (by simpa using h.index_length ha) (by simp [State.phtDefault]))
  have hsc := hpht.loadSC (k := a) (v := s.phtT (s.index a)) (by simpa using ha)
    (by simpa using h.phtT_length _)
  exact (hsc.hrWrite (by simpa using ha) (by simpa using h.hr_length a)).respond _

/-- The history register advances to B bits (R129 step 4): `shl1` keeps the width, and the counter that GAg loads
has W bits, which are B by the last clause of R16. -/
theorem advanced_length (h : s.Widths) (hwf : s.cfg.wf) (a : Bits) (t : Bool) (o : BranchResult) :
    (advanced s.cfg (s.hr a) (count s.sc t) o).length = s.cfg.b := by
  obtain ⟨-, -, -, -, -, -, hload⟩ := hwf
  unfold advanced
  split
  next hg => rw [count_length, h.sc, hload hg.1 hg.2]
  next => rw [shl1_length, h.hr_length]

/-- An accepted `update` keeps the widths. -/
theorem afterUpdate (h : s.Widths) (hwf : s.cfg.wf) (ha : a.length = s.cfg.n) (o : BranchResult) :
    (s.afterUpdate a o).Widths := by
  have hpht : ((s.hrRead a).2.phtPut (s.index a) (count s.sc o.isTaken)).Widths :=
    (h.hrRead ha).setPht (Memory.sized_put _ _ (h.hrRead ha).pht
      (by simpa using h.index_length ha) (by simpa using h.sc))
  exact (hpht.hrWrite (by simpa using ha)
    (by simpa using h.advanced_length hwf a _ o)).consumeSC.respond _

/-- Every accepted command keeps the widths (R35). -/
theorem of_exec (h : s.Widths) (hwf : s.cfg.wf) (hexec : exec i s = .next t) : t.Widths := by
  obtain ⟨-, hn, ⟨-, rfl⟩ | ⟨o, -, -, -, rfl⟩⟩ := exec_next_cases hexec
  · exact h.afterPredict hn
  · exact h.afterUpdate hwf hn o

/-- The reset state has the widths of its configuration, whatever was drawn for `SC` and `SC_addr` (R167). -/
theorem resetOf (c : Config) (d : Nat) : (State.resetOf c d).Widths :=
  ⟨zeros_length _, Memory.sized_nil _ _, Memory.sized_nil _ _, Memory.sized_nil _ _, bv_length _ _, bv_length _ _⟩

theorem resetInput (s : State) : s.resetInput.Widths := { resetOf s.cfg s.draws with }

/-- Every step keeps the widths (R35). -/
theorem of_step (h : s.Widths) (hwf : s.cfg.wf) (hstep : step s = .next t) : t.Widths := by
  obtain ⟨-, rfl⟩ | ⟨r, -, rfl⟩ | ⟨w, r, i, -, -, hexec⟩ := step_next_cases hstep
  · exact h
  · exact resetInput _
  · exact h.dropInput.of_exec hwf hexec

end State.Widths

/-- Settles O23: no step writes the configuration, and by the invariant every width before and after a step is the one
that the configuration gives. -/
theorem noStepChangesTheConfiguration : Obligations.NoStepChangesTheConfiguration := by
  intro s t hstep
  have hcfg : t.cfg = s.cfg := step_cfg hstep
  refine ⟨hcfg, fun hinv => ?_⟩
  have hs : s.Widths := hinv.widths
  have ht : t.Widths := hs.of_step hinv.cfg_wf hstep
  refine ⟨?_, ?_, fun k => ?_, fun k => ?_, fun k => ?_⟩
  · rw [ht.bhr, hs.bhr, hcfg]
  · rw [ht.sc, hs.sc, hcfg]
  · rw [ht.pabhrT_length, hs.pabhrT_length, hcfg]
  · rw [ht.psbhrT_length, hs.psbhrT_length, hcfg]
  · rw [ht.phtT_length, hs.phtT_length, hcfg]

end Sys2Proof.Machine

/-!
SUPPORT. The history register that serves an address (41_indexing.md R99) under reads, writes and commands; runs of
commands; and the statements about the content of a history register, O59 (R42) and O60 (R43).
-/

namespace Sys2Proof.Machine

variable {s t : State} {i : Instr} {is : List Instr} {a b : Bits} {o : BranchResult}

/-! ## Which updates leave a history register alone -/

@[simp] theorem phtPut_hr (k v : Bits) : (s.phtPut k v).hr a = s.hr a := rfl
@[simp] theorem phtPutIfAbsent_hr (k v : Bits) : (s.phtPutIfAbsent k v).hr a = s.hr a := rfl
@[simp] theorem loadSC_hr (k c : Bits) : (s.loadSC k c).hr a = s.hr a := rfl
@[simp] theorem consumeSC_hr : s.consumeSC.hr a = s.hr a := rfl
@[simp] theorem respond_hr (r : Response) : (s.respond r).hr a = s.hr a := rfl

/-- Every history register of the reset state is `0^B` (R41, R167). -/
@[simp] theorem resetOf_hr (c : Config) (d : Nat) : (State.resetOf c d).hr a = zeros c.b := by
  unfold State.hr
  split <;> rfl

/-! ## Reads and writes of the history register -/

/-- Addresses of one bank key, or of a variant without a bank, have one history register (R99). -/
theorem hr_eq_of_hrKey_eq (h : hrKey s.cfg a = hrKey s.cfg b) : s.hr a = s.hr b := by
  cases hv : s.cfg.variant <;> simp_all [State.hr, hrKey]

/-- Lazy creation changes no history register in the total view (R53, R33). -/
@[simp] theorem hrRead_hr : (s.hrRead a).2.hr b = s.hr b := by
  cases hv : s.cfg.variant <;>
    simp [State.hr, State.hrRead, hv, State.pabhrT, State.psbhrT, State.bankDefault, Memory.total_readCreate]

/-- A write to the history register of `a` is seen by the addresses that share it, and by no other (R99). -/
theorem hrWrite_hr (v : Bits) :
    (s.hrWrite a v).hr b = if hrKey s.cfg a = hrKey s.cfg b then v else s.hr b := by
  cases hv : s.cfg.variant <;>
    simp [State.hr, State.hrWrite, hrKey, hv, State.pabhrT, State.psbhrT, State.bankDefault, Memory.total_put,
      eq_comm]

/-! ## Commands -/

/-- An accepted `predict` writes back what it has read, so no history register changes (R123). -/
@[simp] theorem afterPredict_hr : (s.afterPredict a).hr b = s.hr b := by
  simp only [State.afterPredict, respond_hr, hrWrite_hr, State.loadSC_cfg, State.phtPutIfAbsent_cfg, hrRead_cfg,
    loadSC_hr, phtPutIfAbsent_hr, hrRead_hr]
  split
  next h => exact hr_eq_of_hrKey_eq h
  next => rfl

/-- An accepted `update` advances the history register of its address, for all addresses that share it (R129). -/
theorem afterUpdate_hr :
    (s.afterUpdate a o).hr b =
      if hrKey s.cfg a = hrKey s.cfg b then advanced s.cfg (s.hr b) (count s.sc o.isTaken) o else s.hr b := by
  simp only [State.afterUpdate, respond_hr, consumeSC_hr, hrWrite_hr, State.phtPut_cfg, hrRead_cfg, phtPut_hr,
    hrRead_hr]
  split
  next h => rw [hr_eq_of_hrKey_eq h]
  next => rfl

/-- Outside GAg's `LOAD_COUNTER` mode the history advances by the outcome (R129 step 4). -/
theorem advanced_of_shift {c : Config} (hc : ¬(c.variant = .GAg ∧ c.gagHistMode = .loadCounter))
    (h counted : Bits) : advanced c h counted o = shl1 h o.bit := if_neg hc

/-- A command is a `predict` exactly if it has no outcome operand (R66). -/
theorem op_eq_predict_iff : i.op = .predict ↔ i.actual = none := by
  cases i <;> simp [Instr.op, Instr.actual]

/-- An accepted `predict` leaves the state that `afterPredict` describes. -/
theorem exec_predict_next (hp : i.op = .predict) (h : exec i s = .next t) : t = s.afterPredict i.addr := by
  obtain ⟨-, -, ⟨-, ht⟩ | ⟨o, ho, -⟩⟩ := exec_next_cases h
  · exact ht
  · rw [op_eq_predict_iff.1 hp] at ho
    cases ho

/-- An accepted `update` leaves the state that `afterUpdate` describes. -/
theorem exec_update_next (ho : i.actual = some o) (h : exec i s = .next t) : t = s.afterUpdate i.addr o := by
  obtain ⟨-, -, ⟨hn, -⟩ | ⟨o', ho', -, -, ht⟩⟩ := exec_next_cases h
  · rw [ho] at hn
    cases hn
  · rw [ho] at ho'
    cases ho'
    exact ht

/-! ## Runs -/

/-- An accepted run is an accepted command and an accepted run after it. -/
theorem execAll_cons_next (h : execAll (i :: is) s = .next t) :
    ∃ u, exec i s = .next u ∧ execAll is u = .next t := by
  unfold execAll at h
  split at h
  next u hu => exact ⟨u, hu, h⟩
  next => cases h
  next => cases h

/-- What every command of an accepted run keeps, the run keeps. -/
theorem execAll_keeps {P : State → Prop} (hstep : ∀ i ∈ is, ∀ s t, exec i s = .next t → P s → P t)
    (h : execAll is s = .next t) (hs : P s) : P t := by
  induction is generalizing s with
  | nil =>
    cases h
    exact hs
  | cons i is ih =>
    obtain ⟨u, hu, hrest⟩ := execAll_cons_next h
    exact ih (fun j hj => hstep j (List.mem_cons_of_mem _ hj)) hrest (hstep i List.mem_cons_self s u hu hs)

/-! ## History under shift-in (R42) -/

/-- Shift-ins keep the last bits of the register and what was shifted in (R95). -/
theorem foldl_shl1 (r bs : Bits) : bs.foldl shl1 r = (r ++ bs).drop bs.length := by
  induction bs generalizing r with
  | nil => simp
  | cons x bs ih =>
    calc bs.foldl shl1 (shl1 r x)
        = ((r ++ [x]).drop 1 ++ bs).drop bs.length := ih _
      _ = ((r ++ [x] ++ bs).drop 1).drop bs.length := by
          rw [List.drop_append_of_le_length (l₁ := r ++ [x]) (by simp)]
      _ = (r ++ x :: bs).drop (bs.length + 1) := by
          rw [List.drop_drop, List.append_assoc, List.singleton_append, Nat.add_comm 1]

/-- The outcomes of a sequence are those of its first command, then those of the rest. -/
theorem outcomesFor_cons (c : Config) (a : Bits) (i : Instr) (is : List Instr) :
    outcomesFor c a (i :: is) = outcomesFor c a [i] ++ outcomesFor c a is :=
  List.filterMap_append (l := [i])

/-- A `predict` records no outcome. -/
theorem outcomesFor_predict (c : Config) (a : Bits) (h : i.actual = none) : outcomesFor c a [i] = [] := by
  simp [outcomesFor, h]

/-- An `update` records its outcome for the addresses that share its history register. -/
theorem outcomesFor_update (c : Config) (a : Bits) (h : i.actual = some o) :
    outcomesFor c a [i] = if hrKey c i.addr = hrKey c a then [o.bit] else [] := by
  by_cases hk : hrKey c i.addr = hrKey c a <;> simp [outcomesFor, h, hk]

/-- An accepted command shifts into the history register of `b` what it records for `b` (R42). -/
theorem exec_hr (hshift : ¬(s.cfg.variant = .GAg ∧ s.cfg.gagHistMode = .loadCounter)) (h : exec i s = .next t) :
    t.hr b = (outcomesFor s.cfg b [i]).foldl shl1 (s.hr b) := by
  obtain ⟨-, -, ⟨ho, rfl⟩ | ⟨o, ho, -, -, rfl⟩⟩ := exec_next_cases h
  · rw [outcomesFor_predict _ _ ho, afterPredict_hr, List.foldl_nil]
  · rw [outcomesFor_update _ _ ho, afterUpdate_hr, advanced_of_shift hshift]
    split <;> rfl

/-- An accepted run, from any state, shifts into the history register of `b` what it records for `b`, in order. -/
theorem execAll_hr (hshift : ¬(s.cfg.variant = .GAg ∧ s.cfg.gagHistMode = .loadCounter))
    (h : execAll is s = .next t) : t.hr b = (outcomesFor s.cfg b is).foldl shl1 (s.hr b) := by
  induction is generalizing s with
  | nil =>
    cases h
    rfl
  | cons i is ih =>
    obtain ⟨u, hu, hrest⟩ := execAll_cons_next h
    have hcfg : u.cfg = s.cfg := exec_cfg hu
    rw [ih (hcfg ▸ hshift) hrest, hcfg, exec_hr hshift hu, outcomesFor_cons s.cfg b i is, List.foldl_append]

/-- Settles O59: each command shifts in what it records for the register's scope, and shift-ins into `0^B` keep the
last B bits. -/
theorem historyIsTheLastOutcomesOfItsScope : Obligations.HistoryIsTheLastOutcomesOfItsScope := by
  refine ⟨fun s t i b hshift h => ?_, fun c is t a _ hshift _ h => ?_⟩
  · rw [exec_hr hshift h]
    cases ho : i.actual with
    | none => rw [outcomesFor_predict _ _ ho, List.foldl_nil]
    | some o =>
      rw [outcomesFor_update _ _ ho]
      dsimp only
      split <;> rfl
  · rw [execAll_hr hshift h, State.resetOf_cfg, resetOf_hr, foldl_shl1]

/-! ## History that is the counter (R43) -/

/-- An accepted `predict` keeps `BHR`: for a global register what is written back is its own content (R123). -/
@[simp] theorem afterPredict_bhr : (s.afterPredict a).bhr = s.bhr := by
  cases hv : s.cfg.variant <;> simp [State.afterPredict, State.hrRead, State.hrWrite, State.hr, hv]

/-- GAg's `update` in `LOAD_COUNTER` mode writes one counter to `BHR` and to the block at the old `BHR` (R135). -/
theorem afterUpdate_loadCounter (hv : s.cfg.variant = .GAg) (hm : s.cfg.gagHistMode = .loadCounter) :
    (s.afterUpdate a o).bhr = count s.sc o.isTaken ∧
      (s.afterUpdate a o).pht.get s.bhr = some (count s.sc o.isTaken) := by
  simp [State.afterUpdate, State.hrRead, State.hrWrite, State.index, State.hr, keyPart, advanced, hv, hm]

/-- Settles O60: the `update` writes one counter to both places, and `predict`s keep the `BHR` of construction. -/
theorem loadedHistoryIsTheCounterWritten : Obligations.LoadedHistoryIsTheCounterWritten := by
  refine ⟨fun s t a o hm h => ?_, fun s t a h => ?_, fun c d is t hp h => ?_, fun c hwf hv hm => ?_⟩
  · obtain ⟨hv, -⟩ := exec_next_cases h
    obtain rfl := exec_update_next rfl h
    obtain ⟨hbhr, hpht⟩ := afterUpdate_loadCounter (a := a) (o := o) hv hm
    exact ⟨hbhr, hbhr ▸ hpht⟩
  · rw [exec_predict_next rfl h, afterPredict_bhr]
  · refine execAll_keeps (P := fun u => u.bhr = zeros c.b) (fun i hi u v hu hbhr => ?_) h rfl
    rw [exec_predict_next (hp i hi) hu, afterPredict_bhr, hbhr]
  · obtain ⟨-, -, -, -, -, -, hload⟩ := hwf
    exact hload hv hm

end Sys2Proof.Machine

/-!
SUPPORT. Which keys are present (10_state.md R32) after each operation of a storage space, after a bank read and write,
and after a command; and the statement O24.
-/

namespace Sys2Proof.Machine

variable {s t : State} {i : Instr} {a q : Bits} {o : BranchResult}

/-! ## Presence after each operation of a storage space -/

namespace Memory

variable {m : Memory} {k v : Bits}

/-- A `put` adds its key and takes none away (R50). -/
@[simp] theorem present_put : (m.put k v).present q = true ↔ m.present q = true ∨ q = k := by
  by_cases hq : q = k <;> simp [Memory.present, get_put, hq]

/-- `putIfAbsent` leaves its key present, whether it stored or not, and takes none away (R51). -/
@[simp] theorem present_putIfAbsent : (m.putIfAbsent k v).present q = true ↔ m.present q = true ∨ q = k := by
  by_cases hq : q = k <;> simp [Memory.present, get_putIfAbsent, hq]

/-- A bank read leaves its key present and takes none away (R53). -/
@[simp] theorem present_readCreate : (m.readCreate v k).2.present q = true ↔ m.present q = true ∨ q = k := by
  by_cases hq : q = k <;> simp [Memory.present, get_readCreate, hq]

end Memory

/-! ## Reads and writes of the history register -/

@[simp] theorem hrRead_pht : (s.hrRead a).2.pht = s.pht := by
  unfold State.hrRead
  split <;> rfl

@[simp] theorem hrWrite_pht (v : Bits) : (s.hrWrite a v).pht = s.pht := by
  unfold State.hrWrite
  split <;> rfl

/-- `q` is the key of `a` in the per-address bank, of a variant that has one (R27, R99). -/
def IsPabhrKey (c : Config) (a q : Bits) : Prop := c.variant.hasPabhr = true ∧ hrKey c a = some q

/-- `q` is the key of `a` in the per-set bank, of a variant that has one (R28, R99). -/
def IsPsbhrKey (c : Config) (a q : Bits) : Prop := c.variant.hasPsbhr = true ∧ hrKey c a = some q

theorem hrRead_pabhr_present :
    (s.hrRead a).2.pabhr.present q = true ↔ s.pabhr.present q = true ∨ IsPabhrKey s.cfg a q := by
  cases hv : s.cfg.variant <;> simp [State.hrRead, IsPabhrKey, hrKey, Variant.hasPabhr, hv, eq_comm (a := q)]

theorem hrRead_psbhr_present :
    (s.hrRead a).2.psbhr.present q = true ↔ s.psbhr.present q = true ∨ IsPsbhrKey s.cfg a q := by
  cases hv : s.cfg.variant <;> simp [State.hrRead, IsPsbhrKey, hrKey, Variant.hasPsbhr, hv, eq_comm (a := q)]

theorem hrWrite_pabhr_present (v : Bits) :
    (s.hrWrite a v).pabhr.present q = true ↔ s.pabhr.present q = true ∨ IsPabhrKey s.cfg a q := by
  cases hv : s.cfg.variant <;> simp [State.hrWrite, IsPabhrKey, hrKey, Variant.hasPabhr, hv, eq_comm (a := q)]

theorem hrWrite_psbhr_present (v : Bits) :
    (s.hrWrite a v).psbhr.present q = true ↔ s.psbhr.present q = true ∨ IsPsbhrKey s.cfg a q := by
  cases hv : s.cfg.variant <;> simp [State.hrWrite, IsPsbhrKey, hrKey, Variant.hasPsbhr, hv, eq_comm (a := q)]

/-! ## Commands -/

/-- The table after an accepted `predict` (R114 step 3). -/
@[simp] theorem afterPredict_pht : (s.afterPredict a).pht = s.pht.putIfAbsent (s.index a) s.phtDefault := by
  simp [State.afterPredict]

/-- The table after an accepted `update` (R129 step 3). -/
@[simp] theorem afterUpdate_pht :
    (s.afterUpdate a o).pht = s.pht.put (s.index a) (count s.sc o.isTaken) := by
  simp [State.afterUpdate]

/-- The bank read of a command has made the key present, so its bank write adds none. -/
theorem afterPredict_pabhr_present :
    (s.afterPredict a).pabhr.present q = true ↔ s.pabhr.present q = true ∨ IsPabhrKey s.cfg a q := by
  simp [State.afterPredict, hrWrite_pabhr_present, hrRead_pabhr_present]

theorem afterPredict_psbhr_present :
    (s.afterPredict a).psbhr.present q = true ↔ s.psbhr.present q = true ∨ IsPsbhrKey s.cfg a q := by
  simp [State.afterPredict, hrWrite_psbhr_present, hrRead_psbhr_present]

theorem afterUpdate_pabhr_present :
    (s.afterUpdate a o).pabhr.present q = true ↔ s.pabhr.present q = true ∨ IsPabhrKey s.cfg a q := by
  simp [State.afterUpdate, hrWrite_pabhr_present, hrRead_pabhr_present]

theorem afterUpdate_psbhr_present :
    (s.afterUpdate a o).psbhr.present q = true ↔ s.psbhr.present q = true ∨ IsPsbhrKey s.cfg a q := by
  simp [State.afterUpdate, hrWrite_psbhr_present, hrRead_psbhr_present]

/-- Settles O24: a command makes one index present in the table and one key in the bank, and every operation on a
storage space keeps the keys it finds. -/
theorem presenceGrowsByOneIndexAndOneKey : Obligations.PresenceGrowsByOneIndexAndOneKey := by
  refine ⟨fun i s t h => ?_, fun c d => ⟨rfl, rfl, rfl⟩⟩
  obtain ⟨-, -, ⟨-, rfl⟩ | ⟨o, -, -, -, rfl⟩⟩ := exec_next_cases h
  · exact ⟨fun q => by rw [afterPredict_pht, Memory.present_putIfAbsent],
      fun q => afterPredict_pabhr_present, fun q => afterPredict_psbhr_present⟩
  · exact ⟨fun q => by rw [afterUpdate_pht, Memory.present_put],
      fun q => afterUpdate_pabhr_present, fun q => afterUpdate_psbhr_present⟩

end Sys2Proof.Machine

/-!
SUPPORT. The two cases of `putIfAbsent` (20_memory.md R51), key absent and key present; and the statement O9.
-/

namespace Sys2Proof.Machine

namespace Memory

variable {m : Memory} {k v : Bits}

theorem putIfAbsent_of_present (h : m.present k = true) : m.putIfAbsent k v = m := if_pos h

theorem get_putIfAbsent_of_absent (h : m.get k = none) : (m.putIfAbsent k v).get k = some v := by
  simp [get_putIfAbsent, Memory.total, h]

end Memory

/-- Settles O9: the first call leaves its key present, and a call on a present key changes nothing. -/
theorem putIfAbsentNeverOverwrites : Obligations.PutIfAbsentNeverOverwrites := by
  intro m k v v'
  have hpresent : (m.putIfAbsent k v).present k = true := Memory.present_putIfAbsent.2 (.inr rfl)
  refine ⟨fun habsent => ?_, Memory.putIfAbsent_of_present, Memory.total_putIfAbsent m k v⟩
  have hfirst : (m.putIfAbsent k v).get k = some v := Memory.get_putIfAbsent_of_absent habsent
  exact ⟨hfirst, hpresent, by rw [Memory.putIfAbsent_of_present hpresent, hfirst]⟩

end Sys2Proof.Machine

/-!
SUPPORT. The command word (30_encoding.md section 3): the bits of a header and what they stand for, the encoder and the
decoder each said in one equation over the parts of an operation; and the statements O10, O12 and O13.
-/

namespace Sys2Proof

variable {c : Config} {i : Instr} {w a : Bits} {o : BranchResult} {x : Command} {v : Variant}

/-! ## Header bits -/

@[simp] theorem Op.ofBit_bit (k : Op) : Op.ofBit k.bit = k := by cases k <;> rfl

@[simp] theorem Op.bit_ofBit (b : Bool) : (Op.ofBit b).bit = b := by cases b <;> rfl

@[simp] theorem BranchResult.of_bit (o : BranchResult) : BranchResult.of o.bit = o := by cases o <;> rfl

/-- The header is a 2-bit number (R69), for words with fewer bits too. -/
theorem headerOf_lt (w : Bits) : headerOf w < 4 :=
  calc headerOf w < 2 ^ (w.take 2).length := uint_lt _
    _ ≤ 2 ^ 2 := Nat.pow_le_pow_right (by decide) (List.length_take_le 2 w)

theorem headerOf_cons_cons (p q : Bool) (a : Bits) : headerOf (p :: q :: a) = 2 * p.toNat + q.toNat := by
  simp [headerOf, uint, Nat.mul_comm]

/-- The mask keeps of the header the bit `op`, which is the more significant one (R69). -/
theorem headerOf_and_mask (p q : Bool) (a : Bits) : headerOf (p :: q :: a) &&& headerMask = 2 * p.toNat := by
  rw [headerOf_cons_cons]
  cases p <;> cases q <;> decide

/-! ## The parts of an operation -/

namespace Instr

theorem wf_iff : i.wf c = true ↔ i.variant = c.variant ∧ i.addr.length = c.n := by
  simp [Instr.wf, Instr.ofVariant, Instr.addrFits]

@[simp] theorem ofCommand_variant : (ofCommand v x).variant = v := by
  obtain ⟨k, a, o⟩ := x
  cases v <;> cases k <;> rfl

@[simp] theorem ofCommand_op : (ofCommand v x).op = x.op := by
  obtain ⟨k, a, o⟩ := x
  cases v <;> cases k <;> rfl

@[simp] theorem ofCommand_addr : (ofCommand v x).addr = x.addr := by
  obtain ⟨k, a, o⟩ := x
  cases v <;> cases k <;> rfl

@[simp] theorem ofCommand_predict_actual : (ofCommand v ⟨.predict, a, o⟩).actual = none := by
  cases v <;> rfl

@[simp] theorem ofCommand_update_actual : (ofCommand v ⟨.update, a, o⟩).actual = some o := by
  cases v <;> rfl

/-- An operation is the one of its own parts; for a `predict`, whatever the outcome field holds (R71). -/
theorem ofCommand_parts (h : ∀ r, i.actual = some r → r = o) : ofCommand i.variant ⟨i.op, i.addr, o⟩ = i := by
  cases i
  case gagUpdate a r | gasUpdate a r | pagUpdate a r | papUpdate a r | sagUpdate a r | sapUpdate a r |
      sasUpdate a r =>
    obtain rfl := h r rfl
    rfl
  all_goals rfl

/-- The match value is twice the bit `op` (R69). -/
theorem headerMatch_eq (i : Instr) : i.headerMatch = 2 * i.op.bit.toNat := by
  unfold Instr.headerMatch
  cases i.op <;> rfl

end Instr

/-! ## The encoder and the decoder -/

/-- R68 for every operation: `op`, `actual` (0 where the operation has none), address. -/
theorem encode_eq (i : Instr) : encode i = i.op.bit :: i.actual.elim false BranchResult.bit :: i.addr := by
  cases i <;> rfl

/-- Everything the decoder accepts, and what it makes of it (R68). -/
theorem decode_ok_iff :
    decode c w = .ok i ↔ ∃ p q a, w = p :: q :: a ∧ a.length = c.n ∧
      i = Instr.ofCommand c.variant ⟨Op.ofBit p, a, BranchResult.of q⟩ := by
  constructor
  · intro h
    unfold decode at h
    split at h
    next p q a =>
      split at h
      next hn => exact ⟨p, q, a, rfl, hn, (Except.ok.inj h).symm⟩
      next => cases h
    next => cases h
    next => cases h
  · rintro ⟨p, q, a, rfl, hn, rfl⟩
    exact if_pos hn

/-- The decoder undoes the encoder on the operations of the instance (R68). -/
theorem decode_encode (h : i.wf c = true) : decode c (encode i) = .ok i := by
  obtain ⟨hv, hn⟩ := Instr.wf_iff.1 h
  refine decode_ok_iff.2 ⟨_, _, _, encode_eq i, hn, ?_⟩
  rw [Op.ofBit_bit, ← hv, Instr.ofCommand_parts fun r hr => by simp [hr]]

/-- The bit `op` of a word is that of the operation decoded from it (R69). -/
theorem headerOf_and_mask_of_decode (h : decode c w = .ok i) : headerOf w &&& headerMask = i.headerMatch := by
  obtain ⟨p, q, a, rfl, -, rfl⟩ := decode_ok_iff.1 h
  rw [headerOf_and_mask, Instr.headerMatch_eq, Instr.ofCommand_op, Op.bit_ofBit]

end Sys2Proof

namespace Sys2Proof.Machine

/-- Settles O10: the layout is read off the encoder's equation, and the decoder undoes it. -/
theorem decodeOfEncodeIsTheOperation : Obligations.DecodeOfEncodeIsTheOperation := by
  intro c i h
  obtain ⟨-, hn⟩ := Instr.wf_iff.1 h
  refine ⟨by simp [encode_eq, hn], by simp [encode_eq, pos], fun o ho => ?_, by simp [encode_eq], decode_encode h⟩
  simp [encode_eq, pos, ho]

/-- Settles O12: what the decoder asks of a word is two bits and an address of N. -/
theorem exactlyTheWordsOfOneLengthDecode : Obligations.ExactlyTheWordsOfOneLengthDecode := by
  intro c w
  constructor
  · rintro ⟨i, h⟩
    obtain ⟨p, q, a, rfl, hn, -⟩ := decode_ok_iff.1 h
    simp [hn]
  · intro h
    match w, h with
    | p :: q :: a, h => exact ⟨_, decode_ok_iff.2 ⟨p, q, a, rfl, by simpa using h, rfl⟩⟩

/-- Settles O13: the masked header is the match value, and the two match values differ. -/
theorem headerMatchesTheOpcodeTable : Obligations.HeaderMatchesTheOpcodeTable := by
  intro c w i h
  have hmask : headerOf w &&& 0b10 = i.headerMatch := headerOf_and_mask_of_decode h
  refine ⟨headerOf_lt w, hmask, ?_⟩
  rw [hmask, Instr.headerMatch_eq]
  cases i.op <;> decide

end Sys2Proof.Machine

/-!
SUPPORT. Commands that are accepted, and what they do to the protocol state and to the responses; and the statement O51
about the pair `branch` (30_encoding.md R79).
-/

namespace Sys2Proof.Machine

variable {s t : State} {i : Instr} {is : List Instr} {a : Bits} {o : BranchResult}

/-! ## Acceptance -/

/-- A `predict` of the instance is accepted from every state (R131 asks something of `update` alone). -/
theorem exec_predict_of_fits (hv : s.cfg.variant = i.variant) (hn : i.addr.length = s.cfg.n) (h : i.actual = none) :
    exec i s = .next (s.afterPredict i.addr) := by
  rw [exec_predict h, onOperand_pass hv hn]

/-- An `update` of the instance that matches the pending `predict` is accepted (R131). -/
theorem exec_update_of_matches (hv : s.cfg.variant = i.variant) (hn : i.addr.length = s.cfg.n)
    (h : i.actual = some o) (hvalid : s.scValid = true) (haddr : s.scAddr = i.addr) :
    exec i s = .next (s.afterUpdate i.addr o) := by
  rw [exec_update h, onOperand_pass hv hn, onMatch_pass hvalid haddr]

/-- A run goes on from the state that its first command leaves. -/
theorem execAll_cons_of_next (h : exec i s = .next t) : execAll (i :: is) s = execAll is t := by
  simp only [execAll, h]

/-! ## Protocol state and responses -/

@[simp] theorem hrRead_responses : (s.hrRead a).2.responses = s.responses := by
  unfold State.hrRead
  split <;> rfl

@[simp] theorem hrWrite_responses (v : Bits) : (s.hrWrite a v).responses = s.responses := by
  unfold State.hrWrite
  split <;> rfl

@[simp] theorem hrWrite_scValid (v : Bits) : (s.hrWrite a v).scValid = s.scValid := by
  unfold State.hrWrite
  split <;> rfl

@[simp] theorem hrWrite_scAddr (v : Bits) : (s.hrWrite a v).scAddr = s.scAddr := by
  unfold State.hrWrite
  split <;> rfl

@[simp] theorem afterPredict_scValid : (s.afterPredict a).scValid = true := by simp [State.afterPredict]

@[simp] theorem afterPredict_scAddr : (s.afterPredict a).scAddr = a := by simp [State.afterPredict]

@[simp] theorem afterPredict_responses :
    (s.afterPredict a).responses = s.responses ++ [.predicted (predictionOf (s.phtT (s.index a)))] := by
  simp [State.afterPredict]

@[simp] theorem afterUpdate_scValid : (s.afterUpdate a o).scValid = false := by simp [State.afterUpdate]

@[simp] theorem afterUpdate_responses : (s.afterUpdate a o).responses = s.responses ++ [.updated] := by
  simp [State.afterUpdate]

/-! ## The pair -/

/-- The pair runs through: its `predict` leaves pending the address that its `update` asks for (R79, R173). -/
theorem execAll_branch (h : a.length = s.cfg.n) :
    execAll (branch s.cfg.variant a o) s = .next ((s.afterPredict a).afterUpdate a o) := by
  have hpredict : exec (Instr.ofCommand s.cfg.variant ⟨.predict, a, o⟩) s = .next (s.afterPredict a) :=
    (exec_predict_of_fits (by simp) (by simpa) (by simp)).trans (by simp)
  have hupdate : exec (Instr.ofCommand s.cfg.variant ⟨.update, a, o⟩) (s.afterPredict a) =
      .next ((s.afterPredict a).afterUpdate a o) :=
    (exec_update_of_matches (o := o) (by simp) (by simpa) (by simp) (by simp) (by simp)).trans (by simp)
  calc execAll (branch s.cfg.variant a o) s
      = execAll [Instr.ofCommand s.cfg.variant ⟨.update, a, o⟩] (s.afterPredict a) := execAll_cons_of_next hpredict
    _ = .next ((s.afterPredict a).afterUpdate a o) := execAll_cons_of_next hupdate

/-- Settles O51: the responses are those of the two commands, and the `update` consumes the prediction. -/
theorem branchPairIsAlwaysAccepted : Obligations.BranchPairIsAlwaysAccepted := by
  intro s a o h
  exact ⟨_, execAll_branch h, by simp, afterUpdate_scValid⟩

end Sys2Proof.Machine

/-!
SUPPORT. Magnitudes of vectors (00_scope.md R19), the saturating counter over them (40_combinational.md section 1), and
the statements O1, O2 and O3.
-/

namespace Sys2Proof

variable {v : Bits} {n x : Nat}

/-! ## Magnitudes -/

@[simp] theorem uint_zeros (n : Nat) : uint (zeros n) = 0 := by
  induction n with
  | zero => rfl
  | succ n ih => simpa [zeros, List.replicate_succ, uint] using ih

@[simp] theorem uint_ones (n : Nat) : uint (ones n) = 2 ^ n - 1 := by
  induction n with
  | zero => rfl
  | succ n ih =>
    have hcons : uint (ones (n + 1)) = 2 ^ n + uint (ones n) := by simp [ones, List.replicate_succ, uint]
    have hpos := Nat.two_pow_pos n
    rw [hcons, ih, Nat.pow_succ]
    omega

/-- The magnitude of a concatenation (R19). -/
theorem uint_append (x y : Bits) : uint (x ++ y) = uint x * 2 ^ y.length + uint y := by
  induction x with
  | nil => simp [uint]
  | cons b x ih =>
    rw [List.cons_append, uint, uint, ih, List.length_append, Nat.pow_add]
    ring

/-- A trailing bit has weight 1 (R19). -/
theorem uint_concat (v : Bits) (b : Bool) : uint (v ++ [b]) = 2 * uint v + b.toNat := by
  simp [uint_append, uint, Nat.mul_comm]

/-- Only the zero vector has magnitude 0. -/
theorem uint_eq_zero_iff : uint v = 0 ↔ v = zeros v.length := by
  refine ⟨fun h => eq_of_uint_eq (by simp) (by simpa using h), fun h => ?_⟩
  rw [h, uint_zeros]

/-- Only the vector of ones has the largest magnitude of its width. -/
theorem uint_eq_max_iff : uint v = 2 ^ v.length - 1 ↔ v = ones v.length := by
  refine ⟨fun h => eq_of_uint_eq (by simp) (by simpa using h), fun h => ?_⟩
  rw [h, uint_ones, ones_length]

/-- A vector is known by its width and its magnitude (R19). -/
theorem eq_bv_of_uint_eq (hl : v.length = n) (hu : uint v = x) : v = bv n x := by
  rw [← hl, ← hu, bv_uint]

end Sys2Proof

namespace Sys2Proof.Machine

variable {c : Bits}

/-! ## One count -/

/-- A taken steps the magnitude up, clamped at the top (R82). -/
theorem uint_count_true (c : Bits) : uint (count c true) = min (uint c + 1) (2 ^ c.length - 1) := by
  have hpos := Nat.two_pow_pos c.length
  exact uint_bv (show min (uint c + 1) (2 ^ c.length - 1) < 2 ^ c.length by omega)

/-- A not-taken steps the magnitude down, clamped at 0 (R82). -/
theorem uint_count_false (c : Bits) : uint (count c false) = uint c - 1 :=
  uint_bv (Nat.lt_of_le_of_lt (Nat.sub_le _ 1) (uint_lt c))

/-- Below the top a taken steps up by one. -/
theorem uint_count_true_of_ne (h : c ≠ ones c.length) : uint (count c true) = uint c + 1 := by
  have hlt := uint_lt c
  have hne := mt uint_eq_max_iff.1 h
  rw [uint_count_true]
  omega

/-- Above the bottom a not-taken steps down by one. -/
theorem uint_count_false_of_ne (h : c ≠ zeros c.length) : uint (count c false) + 1 = uint c := by
  have hne := mt uint_eq_zero_iff.1 h
  rw [uint_count_false]
  omega

@[simp] theorem count_ones_true (n : Nat) : count (ones n) true = ones n :=
  eq_of_uint_eq (by simp) (by simp [uint_count_true])

@[simp] theorem count_zeros_false (n : Nat) : count (zeros n) false = zeros n :=
  eq_of_uint_eq (by simp) (by simp [uint_count_false])

/-- Settles O1: the magnitude after a count, in the middle of the range and at its two bounds. -/
theorem countClampsAtBothBounds : Obligations.CountClampsAtBothBounds := by
  intro c t
  refine ⟨count_length c t, ?_, uint_count_true_of_ne, count_ones_true _, uint_count_false_of_ne,
    count_zeros_false _⟩
  cases t
  · exact uint_count_false c
  · exact uint_count_true c

/-! ## The laws of `count` (R84) -/

/-- A taken leaves the magnitude as it is exactly at the top. -/
theorem uint_count_true_eq_iff : uint (count c true) = uint c ↔ c = ones c.length := by
  refine ⟨fun h => ?_, fun h => ?_⟩
  · by_contra hne
    rw [uint_count_true_of_ne hne] at h
    omega
  · rw [h, count_ones_true]

/-- A not-taken leaves the magnitude as it is exactly at the bottom. -/
theorem uint_count_false_eq_iff : uint (count c false) = uint c ↔ c = zeros c.length := by
  rw [← uint_eq_zero_iff, uint_count_false]
  omega

/-- `count` is monotone in the magnitude (R84 (e)). -/
theorem uint_count_mono {d : Bits} (hl : d.length = c.length) (h : uint c ≤ uint d) (t : Bool) :
    uint (count c t) ≤ uint (count d t) := by
  cases t
  · rw [uint_count_false, uint_count_false]
    omega
  · rw [uint_count_true, uint_count_true, hl]
    omega

/-- A not-taken undoes a taken below the top (R84 (f)). -/
theorem count_true_false_of_ne (h : c ≠ ones c.length) : count (count c true) false = c :=
  eq_of_uint_eq (by simp) (by rw [uint_count_false, uint_count_true_of_ne h, Nat.add_sub_cancel])

/-- A taken undoes a not-taken above the bottom (R84 (f)). -/
theorem count_false_true_of_ne (h : c ≠ zeros c.length) : count (count c false) true = c := by
  refine eq_of_uint_eq (by simp) ?_
  have hlt := uint_lt c
  have hstep := uint_count_false_of_ne h
  rw [uint_count_true, count_length]
  omega

/-- One step down from the top clears the trailing bit (R84 (f)). -/
theorem count_ones_false (n : Nat) : count (ones (n + 1)) false = ones n ++ [false] := by
  refine eq_of_uint_eq (by simp) ?_
  have hpos := Nat.two_pow_pos n
  rw [uint_count_false, uint_concat, uint_ones, uint_ones, Nat.pow_succ, Bool.toNat_false]
  omega

/-- One step up from the bottom sets the trailing bit (R84 (f)). -/
theorem count_zeros_true (n : Nat) : count (zeros (n + 1)) true = zeros n ++ [true] := by
  refine eq_of_uint_eq (by simp) ?_
  have hpos := Nat.two_pow_pos n
  rw [uint_count_true, uint_concat, uint_zeros, uint_zeros, zeros_length, Nat.pow_succ, Bool.toNat_true]
  omega

/-! ## Sequences of counts -/

@[simp] theorem foldl_count_length (c : Bits) (ts : List Bool) : (ts.foldl count c).length = c.length := by
  induction ts generalizing c with
  | nil => rfl
  | cons t ts ih => rw [List.foldl_cons, ih, count_length]

/-- The plateau of repeated taken outcomes (R84 (c)). -/
theorem uint_foldl_count_true (c : Bits) (n : Nat) :
    uint ((List.replicate n true).foldl count c) = min (uint c + n) (2 ^ c.length - 1) := by
  induction n generalizing c with
  | zero =>
    have hlt := uint_lt c
    rw [List.replicate_zero, List.foldl_nil]
    omega
  | succ n ih =>
    rw [List.replicate_succ, List.foldl_cons, ih, uint_count_true, count_length]
    omega

/-- The floor of repeated not-taken outcomes (R84 (d)). -/
theorem uint_foldl_count_false (c : Bits) (n : Nat) :
    uint ((List.replicate n false).foldl count c) = uint c - n := by
  induction n generalizing c with
  | zero => rfl
  | succ n ih =>
    rw [List.replicate_succ, List.foldl_cons, ih, uint_count_false]
    omega

/-- Only taken outcomes raise a counter, each by at most one. -/
theorem uint_foldl_count_le (c : Bits) (ts : List Bool) : uint (ts.foldl count c) ≤ uint c + ts.count true := by
  induction ts generalizing c with
  | nil => simp
  | cons t ts ih =>
    have hrest := ih (count c t)
    rw [List.foldl_cons]
    cases t
    · rw [uint_count_false] at hrest
      rw [List.count_cons_of_ne (by decide)]
      omega
    · rw [uint_count_true] at hrest
      rw [List.count_cons_self]
      omega

/-- Settles O2: each law of R84 from the magnitudes after one count and after a sequence of them. -/
theorem countObeysTheCounterLaws : Obligations.CountObeysTheCounterLaws := by
  intro c d t n hw hd
  have hrange : uint (count c t) ≤ 2 ^ c.length - 1 := Nat.le_sub_one_of_lt (count_length c t ▸ uint_lt _)
  obtain ⟨w, hlen⟩ := Nat.exists_eq_add_of_le' hw
  refine ⟨hrange, ?_, uint_count_true_eq_iff, ?_, uint_count_false_eq_iff,
    eq_bv_of_uint_eq (foldl_count_length _ _) (uint_foldl_count_true c n),
    eq_bv_of_uint_eq (foldl_count_length _ _) (uint_foldl_count_false c n),
    fun h => uint_count_mono hd h t, ?_, ?_⟩
  · by_cases h : c = ones c.length
    · exact .inr (uint_count_true_eq_iff.2 h)
    · exact .inl (uint_count_true_of_ne h)
  · by_cases h : c = zeros c.length
    · exact .inr (uint_count_false_eq_iff.2 h)
    · exact .inl (uint_count_false_of_ne h)
  · split_ifs with h
    · rw [hlen] at h ⊢
      rw [h, count_ones_true, count_ones_false, Nat.add_sub_cancel]
    · exact count_true_false_of_ne h
  · split_ifs with h
    · rw [hlen] at h ⊢
      rw [h, count_zeros_false, count_zeros_true, Nat.add_sub_cancel]
    · exact count_false_true_of_ne h

/-! ## The prediction bit (R85) -/

/-- A block predicts Taken exactly when its leading bit is 1. -/
theorem predictionOf_eq_taken_iff : predictionOf c = .taken ↔ pos c 0 = true := by
  unfold predictionOf
  cases pos c 0 <;> decide

/-- The leading bit is 1 exactly in the upper half of the magnitudes. -/
theorem pos_zero_iff (hw : 1 ≤ c.length) : pos c 0 = true ↔ 2 ^ (c.length - 1) ≤ uint c := by
  match c, hw with
  | b :: r, _ =>
    have hlt := uint_lt r
    cases b
    · simpa [pos, uint] using hlt
    · simp [pos, uint]

/-- A block of width 1 is the last outcome written. -/
theorem count_of_length_one (hw : c.length = 1) (t : Bool) : count c t = [t] := by
  match c, hw with
  | [b], _ => cases b <;> cases t <;> decide

/-- Settles O3: the upper half is reached from 0 by 2^(W-1) steps up and by no fewer. -/
theorem predictionBitIsTheUpperHalf : Obligations.PredictionBitIsTheUpperHalf := by
  intro c hw
  refine ⟨predictionOf_eq_taken_iff, pos_zero_iff hw, fun ts h => ?_, ?_, count_of_length_one⟩
  · rw [pos_zero_iff (by simpa using hw), foldl_count_length, zeros_length] at h
    simpa using h.trans (uint_foldl_count_le _ ts)
  · rw [pos_zero_iff (by simpa using hw), foldl_count_length, uint_foldl_count_true, uint_zeros, zeros_length,
      Nat.zero_add]
    have hpow : 2 ^ (c.length - 1) * 2 = 2 ^ c.length := Nat.two_pow_pred_mul_two hw
    have hpos := Nat.two_pow_pos (c.length - 1)
    omega

end Sys2Proof.Machine

/-!
SUPPORT. The address fold (40_combinational.md section 2): its loop bit by bit and chunk by chunk, and the statements O4
and O5.
-/

namespace Sys2Proof.Machine

variable {k : Nat} {a v out : Bits}

/-! ## One position -/

@[simp] theorem xorAt_false (v : Bits) (j : Nat) : xorAt v j false = v := by
  induction v generalizing j with
  | nil => rfl
  | cons x v ih => cases j <;> simp [xorAt, ih]

/-- The position after a leading part is the first one of what follows it. -/
theorem xorAt_append (p v : Bits) (b : Bool) : xorAt (p ++ v) p.length b = p ++ xorAt v 0 b := by
  induction p with
  | nil => rfl
  | cons x p ih => simp [xorAt, ih]

/-- One position changes, the others stay (R88). -/
theorem pos_xorAt {j : Nat} (h : j < v.length) (b : Bool) (i : Nat) :
    pos (xorAt v j b) i = if j = i then Bool.xor (pos v i) b else pos v i := by
  induction v generalizing j i with
  | nil => cases h
  | cons x v ih =>
    cases j with
    | zero => cases i <;> simp [xorAt, pos]
    | succ j =>
      cases i with
      | zero => simp [xorAt, pos]
      | succ i => simpa [xorAt, pos] using ih (by simpa using h) i

/-! ## The closed form (R88) -/

/-- The XOR of the bits of `a` that the loop, entered at input position `i`, folds into position `j`. -/
def contribution (k i j : Nat) (a : Bits) : Bool :=
  ((List.range a.length).filter fun m => (i + m) % k == j).foldr (fun m x => Bool.xor (pos a m) x) false

/-- The first bit contributes to one position, and the rest is entered one position further on. -/
theorem contribution_cons (k i j : Nat) (b : Bool) (r : Bits) :
    contribution k i j (b :: r) =
      if i % k = j then Bool.xor b (contribution k (i + 1) j r) else contribution k (i + 1) j r := by
  have hrest : ((List.range r.length).map Nat.succ).filter (fun m => (i + m) % k == j) =
      ((List.range r.length).filter fun m => (i + 1 + m) % k == j).map Nat.succ := by
    simp [List.filter_map, Function.comp_def, Nat.add_assoc, Nat.add_comm 1]
  unfold contribution
  rw [List.length_cons, List.range_succ_eq_map, List.filter_cons, hrest, Nat.add_zero]
  simp only [beq_iff_eq]
  split_ifs <;> simp [List.foldr_map, pos]

/-- The loop XORs into each position what contributes to it. -/
theorem pos_hashLoop (hk : 1 ≤ k) (i : Nat) (a : Bits) (hout : out.length = k) (j : Nat) :
    pos (hashLoop k i a out) j = Bool.xor (pos out j) (contribution k i j a) := by
  induction a generalizing i out with
  | nil => simp [hashLoop, contribution]
  | cons b r ih =>
    rw [hashLoop, ih _ (by simpa using hout), pos_xorAt (by simpa [hout] using Nat.mod_lt i hk), contribution_cons]
    split_ifs
    · exact Bool.xor_assoc _ _ _
    · rfl

/-- No position of the start value holds a 1. -/
@[simp] theorem pos_zeros (n i : Nat) : pos (zeros n) i = false := by
  simp [pos, zeros]

/-- Settles O4: the loop starts from `0^K` at input position 0. -/
theorem hashBitIsXorOfItsContributors : Obligations.HashBitIsXorOfItsContributors := by
  intro k a hk
  refine ⟨hashK_length k a, fun j _ => ?_⟩
  rw [hashK, pos_hashLoop hk 0 a (zeros_length k) j, pos_zeros, Bool.false_xor, contribution]
  simp only [Nat.zero_add]

/-! ## The loop over a concatenation -/

/-- The loop over a concatenation goes on where it left off. -/
theorem hashLoop_append (k i : Nat) (x y out : Bits) :
    hashLoop k i (x ++ y) out = hashLoop k (i + x.length) y (hashLoop k i x out) := by
  induction x generalizing i out with
  | nil => rfl
  | cons b x ih => simp [hashLoop, ih, Nat.add_assoc, Nat.add_comm 1]

@[simp] theorem hashLoop_zeros (k i p : Nat) (out : Bits) : hashLoop k i (zeros p) out = out := by
  induction p generalizing i with
  | zero => rfl
  | succ p ih => simpa [zeros, List.replicate_succ, hashLoop] using ih (i + 1)

/-- Trailing zeros do not change the fold (R90). -/
theorem hashK_append_zeros (k p : Nat) (a : Bits) : hashK k (a ++ zeros p) = hashK k a := by
  rw [hashK, hashLoop_append, hashLoop_zeros, hashK]

/-! ## The loop over chunks of K bits -/

/-- The loop repeats with period K. -/
theorem hashLoop_add_width (k i : Nat) (a out : Bits) : hashLoop k (i + k) a out = hashLoop k i a out := by
  induction a generalizing i out with
  | nil => rfl
  | cons b a ih => rw [hashLoop, hashLoop, Nat.add_mod_right, Nat.add_right_comm, ih]

/-- Within a chunk the loop XORs bit after bit: `p` is what it has passed, `x` what is left of the chunk. -/
theorem hashLoop_rest_of_chunk (p x : Bits) (hout : out.length = x.length) (hk : p.length + x.length = k) :
    hashLoop k p.length x (p ++ out) = p ++ List.zipWith Bool.xor out x := by
  induction x generalizing p out with
  | nil => simpa [hashLoop] using hout
  | cons b x ih =>
    match out, hout with
    | y :: out, hout =>
      have hlt : p.length < k := hk ▸ Nat.lt_add_of_pos_right (Nat.succ_pos _)
      have hnext := ih (out := out) (p ++ [Bool.xor y b]) (by simpa using hout)
        (by simpa [Nat.add_assoc, Nat.add_comm 1] using hk)
      rw [hashLoop, Nat.mod_eq_of_lt hlt, xorAt_append]
      simpa [xorAt] using hnext

/-- The loop XORs a whole chunk into the accumulator bit by bit (R90). -/
theorem hashLoop_chunk {x : Bits} (hout : out.length = k) (hx : x.length = k) :
    hashLoop k 0 x out = List.zipWith Bool.xor out x :=
  hashLoop_rest_of_chunk [] x (hout.trans hx.symm) (by simpa using hx)

/-- The loop XORs chunk after chunk into the accumulator (R90). -/
theorem hashLoop_flatten (chunks : List Bits) (hchunks : ∀ x ∈ chunks, x.length = k) (hout : out.length = k) :
    hashLoop k 0 chunks.flatten out = chunks.foldl (List.zipWith Bool.xor) out := by
  induction chunks generalizing out with
  | nil => rfl
  | cons x chunks ih =>
    obtain ⟨hx, hrest⟩ := List.forall_mem_cons.1 hchunks
    rw [List.flatten_cons, hashLoop_append, hx, hashLoop_add_width, hashLoop_chunk hout hx,
      ih hrest (by simp [hout, hx]), List.foldl_cons]

/-- `0^n` is the identity of the bitwise XOR (R80). -/
theorem zipWith_xor_zeros (v : Bits) : List.zipWith Bool.xor (zeros v.length) v = v := by
  induction v with
  | nil => rfl
  | cons b v ih => simpa [zeros, List.replicate_succ] using ih

/-! ## The corners of K (R90) -/

/-- For K = N the fold is the address. -/
theorem hashK_of_length_eq (h : a.length = k) : hashK k a = a := by
  rw [hashK, hashLoop_chunk (zeros_length k) h, ← h, zipWith_xor_zeros]

/-- For K at least N the fold is the address with trailing zeros. -/
theorem hashK_of_length_le (h : a.length ≤ k) : hashK k a = a ++ zeros (k - a.length) := by
  rw [← hashK_append_zeros k (k - a.length) a]
  exact hashK_of_length_eq (by simp [h])

/-- For K = 1 the loop keeps the parity of what it has passed. -/
theorem hashLoop_one (i : Nat) (a : Bits) (b : Bool) : hashLoop 1 i a [b] = [Bool.xor b (a.foldr Bool.xor false)] := by
  induction a generalizing i b with
  | nil => simp [hashLoop]
  | cons x a ih => rw [hashLoop, Nat.mod_one, xorAt, ih, Bool.xor_assoc, List.foldr_cons]

/-- Settles O5: the fold at each corner of K, by the loop over chunks and over trailing zeros. -/
theorem hashAtTheCornersOfTheFoldWidth : Obligations.HashAtTheCornersOfTheFoldWidth := by
  refine ⟨fun a => hashK_of_length_eq rfl, fun k a h => hashK_of_length_le h, fun a => ?_,
    fun k chunks _ h => hashLoop_flatten chunks h (zeros_length k), fun k p a _ => hashK_append_zeros k p a, ?_⟩
  · exact (hashLoop_one 0 a false).trans (by rw [Bool.false_xor])
  · rintro c hfold hk ⟨-, -, -, hwf, -⟩
    exact absurd (hwf hfold) (by omega)

end Sys2Proof.Machine

/-!
SUPPORT. The shift-in (40_combinational.md section 3), and the statements O7 and O8.
-/

namespace Sys2Proof.Machine

@[simp] theorem shl1_cons (x b : Bool) (r : Bits) : shl1 (x :: r) b = r ++ [b] := rfl

/-- The leading bit leaves the range of the register, so the magnitude doubles modulo 2^B (R92). -/
theorem uint_shl1_cons (x b : Bool) (r : Bits) :
    uint (shl1 (x :: r) b) = (2 * uint (x :: r) + b.toNat) % 2 ^ (r.length + 1) := by
  have hlt : 2 * uint r + b.toNat < 2 ^ (r.length + 1) := by simpa [uint_concat] using uint_lt (r ++ [b])
  calc uint (shl1 (x :: r) b)
      = 2 * uint r + b.toNat := uint_concat r b
    _ = (2 ^ (r.length + 1) * x.toNat + (2 * uint r + b.toNat)) % 2 ^ (r.length + 1) := by
        rw [Nat.mul_add_mod, Nat.mod_eq_of_lt hlt]
    _ = (2 * uint (x :: r) + b.toNat) % 2 ^ (r.length + 1) := by
        rw [uint, Nat.pow_succ]
        congr 1
        ring

/-- Settles O7: the register without its leading bit, and the new bit after it. -/
theorem shiftInDropsTheLeadingBit : Obligations.ShiftInDropsTheLeadingBit := by
  intro r b h
  match r, h with
  | x :: r, _ =>
    refine ⟨shl1_length _ b, fun i hi => ?_, ?_, uint_shl1_cons x b r, fun h1 => ?_⟩
    · exact List.getD_append _ _ _ _ (Nat.lt_of_succ_lt_succ hi)
    · simp [pos]
    · rw [shl1_cons, List.eq_nil_of_length_eq_zero (Nat.succ.inj h1), List.nil_append]

/-- Settles O8: what is left of the register and the bits shifted in, after that many bits are dropped. -/
theorem shiftInsKeepTheLastOutcomes : Obligations.ShiftInsKeepTheLastOutcomes := by
  refine ⟨fun B bs => ?_, fun r r' bs hl hle => ?_⟩
  · rw [foldl_shl1, List.drop_append, zeros_length]
    split_ifs with h
    · simp [zeros, Nat.sub_eq_zero_of_le h]
    · simp [zeros, Nat.sub_eq_zero_of_le (Nat.le_of_not_le h)]
  · have hr : r.drop bs.length = [] := List.drop_eq_nil_of_le hle
    have hr' : r'.drop bs.length = [] := List.drop_eq_nil_of_le (hl ▸ hle)
    rw [foldl_shl1, foldl_shl1, List.drop_append, List.drop_append, hr, hr', hl]

end Sys2Proof.Machine

/-!
SUPPORT. What two addresses share (41_indexing.md section 4): when their indices are one, and the statements O57 (R110)
and O58 (R111).
-/

namespace Sys2Proof.Machine

variable {s : State} {a b : Bits} {c : Config}

/-- The bank key of an N-bit address has `KEYW` bits, where the variant has a bank (R111). -/
theorem hrKey_length (h : a.length = c.n) : (hrKey c a).map List.length = c.keyWidth := by
  unfold hrKey Config.keyWidth
  cases c.variant with
  | GAg | GAs => rfl
  | PAg | PAp => exact congrArg some h
  | SAg | SAp | SAs => exact congrArg some (hashK_length c.k a)

/-- Two N-bit addresses share a PHT entry exactly when both parts of their indices agree: the address parts have one
width, so the history begins at one position (R101). -/
theorem index_eq_iff (ha : a.length = s.cfg.n) (hb : b.length = s.cfg.n) :
    s.index a = s.index b ↔ keyPart s.cfg a = keyPart s.cfg b ∧ s.hr a = s.hr b := by
  have hlen : (keyPart s.cfg a).length = (keyPart s.cfg b).length :=
    Nat.add_right_cancel ((keyPart_length _ _ ha).trans (keyPart_length _ _ hb).symm)
  exact ⟨fun h => List.append_inj h hlen, fun ⟨hpart, hhr⟩ => congrArg₂ List.append hpart hhr⟩

/-- Settles O57: each row compares the bank keys, and the two parts of the index. -/
theorem sharingOfHistoriesAndEntriesByVariant : Obligations.SharingOfHistoriesAndEntriesByVariant := by
  intro s a b ha hb hne
  have hidx := index_eq_iff ha hb
  have hkey : some a ≠ some b := hne ∘ Option.some.inj
  unfold keyPart State.hr at hidx
  unfold hrKey
  generalize s.cfg.variant = v at hidx ⊢
  cases v with
  | GAg => exact ⟨rfl, hidx.mpr ⟨rfl, rfl⟩⟩
  | GAs => exact ⟨rfl, hidx.trans (and_iff_left rfl)⟩
  | PAg => exact ⟨hkey, hidx.trans (and_iff_right rfl)⟩
  | PAp => exact ⟨hkey, fun h => hne (hidx.mp h).left⟩
  | SAg => exact ⟨Option.some_inj, hidx.trans (and_iff_right rfl)⟩
  | SAp => exact ⟨Option.some_inj, fun h => hne (hidx.mp h).left⟩
  | SAs => exact ⟨Option.some_inj, hidx.trans (and_iff_left_of_imp (congrArg s.psbhrT))⟩

/-- Settles O58: the address part has its width, and the history register, which follows it in the index, has B bits by
the invariant. -/
theorem everyIndexAndKeyHasItsWidth : Obligations.EveryIndexAndKeyHasItsWidth := by
  intro s a hinv ha
  exact ⟨keyPart_length s.cfg a ha, hinv.widths.index_length ha, hrKey_length ha⟩

end Sys2Proof.Machine

/-!
SUPPORT. What a `predict` does (42_predict.md): the visit it pays to its bank register, a read and a write-back of the
content read; the state after it, field by field; and the statements O25 to O31 (R115 to R121), O39 (R114), O41 (R123)
and O45 (R125).
-/

namespace Sys2Proof.Machine

variable {s t : State} {i : Instr} {a idx : Bits}

/-! ## Entries written -/

namespace EntryWritten

variable {m m' : Memory} {k v d : Bits}

theorem of_get (h : ∀ q, m'.get q = if q = k then some v else m.get q) : EntryWritten m m' k v :=
  ⟨by rw [h, if_pos rfl], fun q hq => by rw [h, if_neg hq]⟩

theorem putIfAbsent (m : Memory) (k d : Bits) : EntryWritten m (m.putIfAbsent k d) k (m.total d k) :=
  of_get (m.get_putIfAbsent k d)

/-- To write what an entry already reads as changes no entry in the total view (R33). -/
theorem total_eq (h : EntryWritten m m' k (m.total d k)) (q : Bits) : m'.total d q = m.total d q := by
  obtain ⟨hself, hother⟩ := h
  by_cases hq : q = k
  · rw [hq, Memory.total, hself, Option.getD_some]
  · rw [Memory.total, hother q hq, Memory.total]

end EntryWritten

/-! ## The visit of a `predict` to its bank -/

namespace Memory

variable {m : Memory} {k v d : Bits}

/-- A bank after a `predict` that it serves under the key `k`: the register is read, created with the content `d` if
it is absent (R53), and written back with the content read (R54). -/
def visit (d : Bits) (m : Memory) (k : Bits) : Memory := (m.readCreate d k).2.put k (m.total d k)

theorem entryWritten_visit (d : Bits) (m : Memory) (k : Bits) : EntryWritten m (m.visit d k) k (m.total d k) :=
  .of_get fun q => by
    rw [visit, get_put, get_readCreate]
    split <;> rfl

/-- A second `put` finds its key where the first has left it, in canonical form or not. -/
theorem put_put (m : Memory) (k v : Bits) : (m.put k v).put k v = m.put k v := by
  induction m with
  | nil => simp [Memory.put]
  | cons e m ih =>
    by_cases hk : k = e.1
    · simp [Memory.put, hk]
    · by_cases hlt : keyLt k e.1 = true
      · simp [Memory.put, hk, hlt]
      · simp [Memory.put, hk, hlt, ih]

theorem readCreate_snd_of_get (h : m.get k = some v) : (m.readCreate d k).2 = m := by
  simp only [Memory.readCreate, h]

/-- A second visit leaves the bank as the first has left it, presence included (R125). -/
theorem visit_visit (d : Bits) (m : Memory) (k : Bits) : (m.visit d k).visit d k = m.visit d k := by
  have hvisited := entryWritten_visit d m k
  calc (m.visit d k).visit d k
      = (m.visit d k).put k (m.total d k) := by
        rw [visit, readCreate_snd_of_get hvisited.1, hvisited.total_eq k]
    _ = m.visit d k := put_put _ k _

end Memory

/-! ## The state after a `predict` -/

@[simp] theorem hrRead_input : (s.hrRead a).2.input = s.input := by
  unfold State.hrRead
  split <;> rfl

@[simp] theorem hrRead_draws : (s.hrRead a).2.draws = s.draws := by
  unfold State.hrRead
  split <;> rfl

@[simp] theorem hrWrite_sc (v : Bits) : (s.hrWrite a v).sc = s.sc := by
  unfold State.hrWrite
  split <;> rfl

@[simp] theorem hrWrite_input (v : Bits) : (s.hrWrite a v).input = s.input := by
  unfold State.hrWrite
  split <;> rfl

@[simp] theorem hrWrite_draws (v : Bits) : (s.hrWrite a v).draws = s.draws := by
  unfold State.hrWrite
  split <;> rfl

@[simp] theorem afterPredict_sc : (s.afterPredict a).sc = s.phtT (s.index a) := by simp [State.afterPredict]

@[simp] theorem afterPredict_input : (s.afterPredict a).input = s.input := by simp [State.afterPredict]

@[simp] theorem afterPredict_draws : (s.afterPredict a).draws = s.draws := by simp [State.afterPredict]

/-- The per-address bank after a `predict`: visited where the variant has it. -/
theorem afterPredict_pabhr :
    (s.afterPredict a).pabhr =
      if s.cfg.variant.hasPabhr = true then s.pabhr.visit s.bankDefault a else s.pabhr := by
  cases hv : s.cfg.variant <;>
    simp [State.afterPredict, State.hrRead, State.hrWrite, State.hr, hv, Variant.hasPabhr, Memory.visit, State.pabhrT]

/-- The per-set bank after a `predict`: visited where the variant has it. -/
theorem afterPredict_psbhr :
    (s.afterPredict a).psbhr =
      if s.cfg.variant.hasPsbhr = true then s.psbhr.visit s.bankDefault (hashK s.cfg.k a) else s.psbhr := by
  cases hv : s.cfg.variant <;>
    simp [State.afterPredict, State.hrRead, State.hrWrite, State.hr, hv, Variant.hasPsbhr, Memory.visit, State.psbhrT]

/-- What every accepted `predict` does to the table, to `SC` and to the driver's channel (R114 steps 3, 4 and 6). -/
theorem afterPredict_writes (s : State) (a : Bits) : PredictWrites s (s.afterPredict a) a (s.index a) where
  entry := by
    rw [afterPredict_pht]
    exact .putIfAbsent s.pht (s.index a) s.phtDefault
  sc := afterPredict_sc
  scValid := afterPredict_scValid
  scAddr := afterPredict_scAddr
  response := afterPredict_responses
  cfg := afterPredict_cfg a
  input := afterPredict_input
  draws := afterPredict_draws

/-! ## One meaning per variant -/

/-- The index that each variant forms (R102 to R108). -/
theorem index_by_variant (s : State) (a : Bits) :
    s.index a =
      match s.cfg.variant with
      | .GAg => s.bhr
      | .GAs => hashK s.cfg.k a ++ s.bhr
      | .PAg => s.pabhrT a
      | .PAp => a ++ s.pabhrT a
      | .SAg => s.psbhrT (hashK s.cfg.k a)
      | .SAp => a ++ s.psbhrT (hashK s.cfg.k a)
      | .SAs => hashK s.cfg.k a ++ s.psbhrT (hashK s.cfg.k a) := by
  cases hv : s.cfg.variant <;> simp [State.index, keyPart, State.hr, hv]

section

variable (hv : s.cfg.variant = i.variant) (hn : i.addr.length = s.cfg.n) (hop : i.actual = none)
  (hidx : s.index i.addr = idx)

include hv hn hop hidx

/-- A `predict` of a variant without a bank changes no history register (R115, R116). -/
theorem exec_predict_global (hpabhr : i.variant.hasPabhr = false) (hpsbhr : i.variant.hasPsbhr = false) :
    ∃ t, exec i s = .next t ∧ PredictWrites s t i.addr idx ∧
      t.bhr = s.bhr ∧ t.pabhr = s.pabhr ∧ t.psbhr = s.psbhr :=
  ⟨_, exec_predict_of_fits hv hn hop, hidx ▸ afterPredict_writes s i.addr, afterPredict_bhr,
    by simp [afterPredict_pabhr, hv, hpabhr], by simp [afterPredict_psbhr, hv, hpsbhr]⟩

/-- A `predict` of a variant with the per-address bank visits the register of its address (R117, R118). -/
theorem exec_predict_perAddress (hpabhr : i.variant.hasPabhr = true) (hpsbhr : i.variant.hasPsbhr = false) :
    ∃ t, exec i s = .next t ∧ PredictWrites s t i.addr idx ∧
      EntryWritten s.pabhr t.pabhr i.addr (s.pabhrT i.addr) ∧ t.bhr = s.bhr ∧ t.psbhr = s.psbhr := by
  refine ⟨_, exec_predict_of_fits hv hn hop, hidx ▸ afterPredict_writes s i.addr, ?_, afterPredict_bhr,
    by simp [afterPredict_psbhr, hv, hpsbhr]⟩
  rw [afterPredict_pabhr, hv, if_pos hpabhr]
  exact Memory.entryWritten_visit s.bankDefault s.pabhr i.addr

/-- A `predict` of a variant with the per-set bank visits the register of its address's set (R119 to R121). -/
theorem exec_predict_perSet (hpabhr : i.variant.hasPabhr = false) (hpsbhr : i.variant.hasPsbhr = true) :
    ∃ t, exec i s = .next t ∧ PredictWrites s t i.addr idx ∧
      EntryWritten s.psbhr t.psbhr (hashK s.cfg.k i.addr) (s.psbhrT (hashK s.cfg.k i.addr)) ∧
      t.bhr = s.bhr ∧ t.pabhr = s.pabhr := by
  refine ⟨_, exec_predict_of_fits hv hn hop, hidx ▸ afterPredict_writes s i.addr, ?_, afterPredict_bhr,
    by simp [afterPredict_pabhr, hv, hpabhr]⟩
  rw [afterPredict_psbhr, hv, if_pos hpsbhr]
  exact Memory.entryWritten_visit s.bankDefault s.psbhr (hashK s.cfg.k i.addr)

end

/-- Settles O25: the index of GAg is `BHR`, which stays. -/
theorem gAgPredictReadsAtTheGlobalHistory : Obligations.GAgPredictReadsAtTheGlobalHistory := by
  intro s a hv hn
  exact exec_predict_global (i := .gagPredict a) hv hn rfl ((index_by_variant s a).trans (by rw [hv])) rfl rfl

/-- Settles O26: the index of GAs is the set id and `BHR`, which stays. -/
theorem gAsPredictReadsAtSetAndGlobalHistory : Obligations.GAsPredictReadsAtSetAndGlobalHistory := by
  intro s a hv hn
  exact exec_predict_global (i := .gasPredict a) hv hn rfl ((index_by_variant s a).trans (by rw [hv])) rfl rfl

/-- Settles O27: the index of PAg is the register of the address. -/
theorem pAgPredictReadsAtItsOwnHistory : Obligations.PAgPredictReadsAtItsOwnHistory := by
  intro s a hv hn
  exact exec_predict_perAddress (i := .pagPredict a) hv hn rfl ((index_by_variant s a).trans (by rw [hv])) rfl rfl

/-- Settles O28: the index of PAp is the address and its register. -/
theorem pApPredictReadsItsOwnSubTable : Obligations.PApPredictReadsItsOwnSubTable := by
  intro s a hv hn
  exact exec_predict_perAddress (i := .papPredict a) hv hn rfl ((index_by_variant s a).trans (by rw [hv])) rfl rfl

/-- Settles O29: the index of SAg is the register of the set. -/
theorem sAgPredictReadsAtItsSetHistory : Obligations.SAgPredictReadsAtItsSetHistory := by
  intro s a hv hn
  exact exec_predict_perSet (i := .sagPredict a) hv hn rfl ((index_by_variant s a).trans (by rw [hv])) rfl rfl

/-- Settles O30: the index of SAp is the address and the register of its set, which is read and written back under
one set id. -/
theorem sApPredictReadsItsOwnSubTable : Obligations.SApPredictReadsItsOwnSubTable := by
  intro s a hv hn
  exact exec_predict_perSet (i := .sapPredict a) hv hn rfl ((index_by_variant s a).trans (by rw [hv])) rfl rfl

/-- Settles O31: the index of SAs is the set id and the register of the set. -/
theorem sAsPredictReadsTheSubTableOfItsSet : Obligations.SAsPredictReadsTheSubTableOfItsSet := by
  intro s a hv hn
  exact exec_predict_perSet (i := .sasPredict a) hv hn rfl ((index_by_variant s a).trans (by rw [hv])) rfl rfl

/-! ## The generic algorithm -/

/-- The algorithm of R114 over `hrKey` and `HR` always completes, in `afterPredict`. -/
theorem genericPredict_eq (a : Bits) (s : State) : genericPredict a s = .next (s.afterPredict a) := by
  rw [genericPredict, predictAt_eq]
  cases hv : s.cfg.variant with
  | GAg | GAs =>
    -- `afterPredict` writes `BHR` back with its own content, which the algorithm leaves out
    simp [State.afterPredict, State.hrRead, State.hrWrite, State.index, State.hr, hrKey, hv]
    rfl
  | PAg | PAp | SAg | SAp | SAs =>
    simp [State.afterPredict, State.hrRead, State.hrWrite, State.index, State.hr, hrKey, hv]

/-- Settles O39: both sides complete in `afterPredict`. -/
theorem predictsFollowTheGenericAlgorithm : Obligations.PredictsFollowTheGenericAlgorithm := by
  intro s i hwf hp
  obtain ⟨hv, hn⟩ := Instr.wf_iff.mp hwf
  rw [genericPredict_eq, exec_predict_of_fits hv.symm hn (op_eq_predict_iff.mp hp)]

/-! ## The total view -/

@[simp] theorem afterPredict_phtT (k : Bits) : (s.afterPredict a).phtT k = s.phtT k := by
  simp only [State.phtT, State.phtDefault, afterPredict_cfg, afterPredict_pht]
  exact Memory.total_putIfAbsent s.pht (s.index a) (zeros s.cfg.w) k

@[simp] theorem afterPredict_pabhrT (k : Bits) : (s.afterPredict a).pabhrT k = s.pabhrT k := by
  simp only [State.pabhrT, State.bankDefault, afterPredict_cfg, afterPredict_pabhr]
  split
  · exact (Memory.entryWritten_visit (zeros s.cfg.b) s.pabhr a).total_eq k
  · rfl

@[simp] theorem afterPredict_psbhrT (k : Bits) : (s.afterPredict a).psbhrT k = s.psbhrT k := by
  simp only [State.psbhrT, State.bankDefault, afterPredict_cfg, afterPredict_psbhr]
  split
  · exact (Memory.entryWritten_visit (zeros s.cfg.b) s.psbhr (hashK s.cfg.k a)).total_eq k
  · rfl

/-- Settles O41: what `predict` writes it has read under the same key, or it is the default of an absent key. -/
theorem predictKeepsTheTotalView : Obligations.PredictKeepsTheTotalView := by
  intro i s t hp h
  rw [exec_predict_next hp h]
  exact ⟨afterPredict_bhr, afterPredict_pabhrT, afterPredict_psbhrT, afterPredict_phtT, afterPredict_cfg _,
    afterPredict_input, afterPredict_draws⟩

/-! ## Repetition -/

/-- A `predict` moves no index (R109). -/
@[simp] theorem afterPredict_index (b : Bits) : (s.afterPredict a).index b = s.index b := by simp [State.index]

/-- A `predict` hides from the total view that another went before it (R125). -/
theorem afterPredict_afterPredict_view (s : State) (a b : Bits) :
    SameView { (s.afterPredict a).afterPredict b with responses := (s.afterPredict b).responses }
      (s.afterPredict b) where
  cfg := by simp
  bhr := by simp
  pabhr k := show ((s.afterPredict a).afterPredict b).pabhrT k = (s.afterPredict b).pabhrT k by simp
  psbhr k := show ((s.afterPredict a).afterPredict b).psbhrT k = (s.afterPredict b).psbhrT k by simp
  pht k := show ((s.afterPredict a).afterPredict b).phtT k = (s.afterPredict b).phtT k by simp
  sc := by simp
  scValid := by simp
  scAddr := by simp
  responses := rfl

/-- A repeated `predict` leaves every element as the first has left it, presence included (R125): its index and its
bank key are present, and a `put` of what a key holds changes nothing. -/
theorem afterPredict_afterPredict_elements (s : State) (a : Bits) :
    SameElements (s.afterPredict a) ((s.afterPredict a).afterPredict a) where
  cfg := afterPredict_cfg a
  bhr := afterPredict_bhr
  pabhr := by
    simp only [afterPredict_pabhr, afterPredict_cfg, State.bankDefault]
    split
    · exact Memory.visit_visit _ s.pabhr a
    · rfl
  psbhr := by
    simp only [afterPredict_psbhr, afterPredict_cfg, State.bankDefault]
    split
    · exact Memory.visit_visit _ s.psbhr (hashK s.cfg.k a)
    · rfl
  pht := by
    rw [afterPredict_pht, afterPredict_index]
    refine Memory.putIfAbsent_of_present ?_
    rw [afterPredict_pht, Memory.present_putIfAbsent]
    exact .inr rfl
  sc := by simp
  scValid := by simp
  scAddr := by simp
  draws := afterPredict_draws

/-- States with the same elements and the same inputs differ in the responses alone. -/
theorem SameElements.eq_with_responses (h : SameElements s t) (hinput : t.input = s.input) :
    t = { s with responses := t.responses } := by
  cases s
  cases t
  obtain ⟨rfl, rfl, rfl, rfl, rfl, rfl, rfl, rfl, rfl⟩ := h
  cases hinput
  rfl

/-- Settles O45: in the total view the first predict is not seen, and a repetition finds every key present. -/
theorem repeatedPredictLeavesTheLastAlone : Obligations.RepeatedPredictLeavesTheLastAlone := by
  intro i j s hi hj hiwf hjwf
  obtain ⟨hiv, hin⟩ := Instr.wf_iff.mp hiwf
  obtain ⟨hjv, hjn⟩ := Instr.wf_iff.mp hjwf
  have hfirst : exec i s = .next (s.afterPredict i.addr) :=
    exec_predict_of_fits hiv.symm hin (op_eq_predict_iff.mp hi)
  have hsecond : exec j (s.afterPredict i.addr) = .next ((s.afterPredict i.addr).afterPredict j.addr) :=
    exec_predict_of_fits (by simp [hjv]) (by simp [hjn]) (op_eq_predict_iff.mp hj)
  have halone : exec j s = .next (s.afterPredict j.addr) :=
    exec_predict_of_fits hjv.symm hjn (op_eq_predict_iff.mp hj)
  refine ⟨_, _, _, .predicted (predictionOf (s.phtT (s.index j.addr))), hfirst, hsecond, halone, by simp, by simp,
    afterPredict_afterPredict_view s i.addr j.addr, ?_⟩
  rintro rfl
  exact (afterPredict_afterPredict_elements s i.addr).eq_with_responses afterPredict_input

end Sys2Proof.Machine

/-!
SUPPORT. What an `update` does (43_update.md): when it is accepted; the rewrite of its bank register, a read and a write
of the advanced content; the state after it, field by field; and the statements O32 to O38 (R134 to R142), O40 (R129),
O42 (R143), O43 (R144) and O46 (R131, R151).
-/

namespace Sys2Proof.Machine

variable {s t : State} {i : Instr} {a idx q : Bits} {o : BranchResult} {c : Config}

/-! ## Acceptance and refusal -/

/-- A command is an `update` exactly if it has an outcome operand (R66). -/
theorem op_eq_update_iff : i.op = .update ↔ ∃ o, i.actual = some o := by
  cases i <;> simp [Instr.op, Instr.actual]

/-- A body that completes is reached exactly on a match (R131). -/
theorem onMatch_next_iff : (∃ u, onMatch a s (.next t) = .next u) ↔ s.scValid = true ∧ s.scAddr = a := by
  refine ⟨fun ⟨u, hu⟩ => ?_, fun ⟨hvalid, haddr⟩ => ⟨t, onMatch_pass hvalid haddr⟩⟩
  obtain ⟨hvalid, haddr, -⟩ := onMatch_next hu
  exact ⟨hvalid, haddr⟩

/-- Around a body that completes, `ProtocolViolation` is the one refusal (R151). -/
theorem onMatch_refused_iff {cause : Refusal} :
    onMatch a s (.next t) = .refused cause ↔
      ¬(s.scValid = true ∧ s.scAddr = a) ∧ cause = .protocolViolation a := by
  by_cases hmatch : s.scValid = true ∧ s.scAddr = a
  · obtain ⟨hvalid, haddr⟩ := hmatch
    rw [onMatch_pass hvalid haddr]
    simp [hvalid, haddr]
  · rw [onMatch_refused hmatch]
    exact ⟨fun h => ⟨hmatch, (Host.Outcome.refused.inj h).symm⟩, fun ⟨_, hcause⟩ => congrArg _ hcause.symm⟩

/-- An accepted `update` has found its match (R131). -/
theorem exec_update_matches (ho : i.actual = some o) (h : exec i s = .next t) :
    s.scValid = true ∧ s.scAddr = i.addr := by
  rw [exec_update ho] at h
  obtain ⟨-, -, hbody⟩ := onOperand_next h
  exact onMatch_next_iff.mp ⟨t, hbody⟩

/-- A well-formed `update` passes the boundary checks, so the match alone decides (R156). -/
theorem exec_update_of_wf (hwf : i.wf s.cfg = true) (ho : i.actual = some o) :
    exec i s = onMatch i.addr s (.next (s.afterUpdate i.addr o)) := by
  obtain ⟨hv, hn⟩ := Instr.wf_iff.mp hwf
  rw [exec_update ho, onOperand_pass hv.symm hn]

/-- What follows a refusal touches the driver's channels alone (R147). -/
theorem afterRefusal_sameElements (s : State) (cause : Refusal) : SameElements s (s.afterRefusal cause) :=
  ⟨rfl, rfl, rfl, rfl, rfl, rfl, rfl, rfl, rfl⟩

/-- Settles O46: past the boundary checks only the match is asked. -/
theorem updateIsAcceptedExactlyWhenItMatches : Obligations.UpdateIsAcceptedExactlyWhenItMatches := by
  intro i s hop hwf
  obtain ⟨o, ho⟩ := op_eq_update_iff.mp hop
  rw [exec_update_of_wf hwf ho]
  exact ⟨onMatch_next_iff, fun _ => onMatch_refused_iff, fun cause _ => afterRefusal_sameElements s cause⟩

/-! ## The read of the history register -/

/-- The content that the read gives (R99). -/
@[simp] theorem hrRead_fst : (s.hrRead a).1 = s.hr a := by
  cases hv : s.cfg.variant <;> simp [State.hrRead, State.hr, hv]

@[simp] theorem hrRead_sc : (s.hrRead a).2.sc = s.sc := by
  unfold State.hrRead
  split <;> rfl

@[simp] theorem hrRead_scAddr : (s.hrRead a).2.scAddr = s.scAddr := by
  unfold State.hrRead
  split <;> rfl

/-! ## The generic algorithm -/

/-- The algorithm of R129 over `HR` completes in `afterUpdate` if it matches. -/
theorem genericUpdate_eq (a : Bits) (o : BranchResult) (s : State) :
    genericUpdate a o s = onMatch a s (.next (s.afterUpdate a o)) := by
  refine congrArg (onMatch a s) ?_
  rw [updateAt_eq, hrRead_fst, hrRead_sc, State.afterUpdate, State.index]

/-- Settles O40: both sides are the acceptance check around `afterUpdate`. -/
theorem updatesFollowTheGenericAlgorithm : Obligations.UpdatesFollowTheGenericAlgorithm := by
  intro s i o hwf ho
  rw [exec_update_of_wf hwf ho, genericUpdate_eq]

/-! ## The rewrite of a bank register -/

/-- A bank after an `update` that it serves under the key `k`: the register is read, created with the content `d` if it
is absent (R53), and `v` is written to it (R54). -/
def Memory.rewrite (d : Bits) (m : Memory) (k v : Bits) : Memory := (m.readCreate d k).2.put k v

theorem Memory.entryWritten_rewrite (d : Bits) (m : Memory) (k v : Bits) :
    EntryWritten m (m.rewrite d k v) k v :=
  .of_get fun q => by
    rw [Memory.rewrite, Memory.get_put, Memory.get_readCreate]
    split <;> rfl

/-! ## The state after an `update` -/

@[simp] theorem afterUpdate_sc : (s.afterUpdate a o).sc = s.sc := by simp [State.afterUpdate]

@[simp] theorem afterUpdate_scAddr : (s.afterUpdate a o).scAddr = s.scAddr := by simp [State.afterUpdate]

@[simp] theorem afterUpdate_input : (s.afterUpdate a o).input = s.input := by simp [State.afterUpdate]

@[simp] theorem afterUpdate_draws : (s.afterUpdate a o).draws = s.draws := by simp [State.afterUpdate]

/-- In GAg's `LOAD_COUNTER` mode the history becomes the counter (R135). -/
theorem advanced_of_load (hv : c.variant = .GAg) (hm : c.gagHistMode = .loadCounter) (h counted : Bits) :
    advanced c h counted o = counted := if_pos ⟨hv, hm⟩

/-- A variant other than GAg shifts the outcome in (R129 step 4). -/
theorem advanced_of_ne_gag (hv : c.variant ≠ .GAg) (h counted : Bits) : advanced c h counted o = shl1 h o.bit :=
  advanced_of_shift (fun hload => hv hload.1) h counted

/-- `BHR` after an `update`: advanced where the variant has it. -/
theorem afterUpdate_bhr :
    (s.afterUpdate a o).bhr =
      if s.cfg.variant.hasBhr = true then advanced s.cfg s.bhr (count s.sc o.isTaken) o else s.bhr := by
  cases hv : s.cfg.variant <;>
    simp [State.afterUpdate, State.hrRead, State.hrWrite, State.hr, hv, Variant.hasBhr]

/-- The per-address bank after an `update`: the register of the address is rewritten where the variant has it. -/
theorem afterUpdate_pabhr :
    (s.afterUpdate a o).pabhr =
      if s.cfg.variant.hasPabhr = true then s.pabhr.rewrite s.bankDefault a (shl1 (s.pabhrT a) o.bit)
      else s.pabhr := by
  cases hv : s.cfg.variant <;>
    simp [State.afterUpdate, State.hrRead, State.hrWrite, State.hr, hv, Variant.hasPabhr, Memory.rewrite,
      advanced_of_ne_gag]

/-- The per-set bank after an `update`: the register of the set is rewritten where the variant has it. -/
theorem afterUpdate_psbhr :
    (s.afterUpdate a o).psbhr =
      if s.cfg.variant.hasPsbhr = true then
        s.psbhr.rewrite s.bankDefault (hashK s.cfg.k a) (shl1 (s.psbhrT (hashK s.cfg.k a)) o.bit)
      else s.psbhr := by
  cases hv : s.cfg.variant <;>
    simp [State.afterUpdate, State.hrRead, State.hrWrite, State.hr, hv, Variant.hasPsbhr, Memory.rewrite,
      advanced_of_ne_gag]

/-- What every accepted `update` does to the table, to `SC_valid` and to the driver's channel (R129 steps 1, 3
and 5). -/
theorem afterUpdate_writes (s : State) (a : Bits) (o : BranchResult) :
    UpdateWrites s (s.afterUpdate a o) (s.index a) (count s.sc o.isTaken) where
  entry := by
    rw [afterUpdate_pht]
    exact .of_get fun q => s.pht.get_put (s.index a) (count s.sc o.isTaken) q
  sc := afterUpdate_sc
  scValid := afterUpdate_scValid
  scAddr := afterUpdate_scAddr
  response := afterUpdate_responses
  cfg := afterUpdate_cfg a o
  input := afterUpdate_input
  draws := afterUpdate_draws

/-! ## One meaning per variant -/

section

variable (hv : s.cfg.variant = i.variant) (hn : i.addr.length = s.cfg.n) (ho : i.actual = some o)
  (hvalid : s.scValid = true) (haddr : s.scAddr = i.addr) (hidx : s.index i.addr = idx)

include hv hn ho hvalid haddr hidx

/-- An `update` of a variant with the global register advances it (R134, R137). -/
theorem exec_update_global (hbhr : i.variant.hasBhr = true) (hpabhr : i.variant.hasPabhr = false)
    (hpsbhr : i.variant.hasPsbhr = false) :
    ∃ t, exec i s = .next t ∧ UpdateWrites s t idx (count s.sc o.isTaken) ∧
      t.bhr = advanced s.cfg s.bhr (count s.sc o.isTaken) o ∧ t.pabhr = s.pabhr ∧ t.psbhr = s.psbhr :=
  ⟨_, exec_update_of_matches hv hn ho hvalid haddr, hidx ▸ afterUpdate_writes s i.addr o,
    by rw [afterUpdate_bhr, hv, if_pos hbhr], by simp [afterUpdate_pabhr, hv, hpabhr],
    by simp [afterUpdate_psbhr, hv, hpsbhr]⟩

/-- An `update` of a variant with the per-address bank shifts into the register of its address (R138, R139). -/
theorem exec_update_perAddress (hbhr : i.variant.hasBhr = false) (hpabhr : i.variant.hasPabhr = true)
    (hpsbhr : i.variant.hasPsbhr = false) :
    ∃ t, exec i s = .next t ∧ UpdateWrites s t idx (count s.sc o.isTaken) ∧
      EntryWritten s.pabhr t.pabhr i.addr (shl1 (s.pabhrT i.addr) o.bit) ∧ t.bhr = s.bhr ∧ t.psbhr = s.psbhr := by
  refine ⟨_, exec_update_of_matches hv hn ho hvalid haddr, hidx ▸ afterUpdate_writes s i.addr o, ?_,
    by simp [afterUpdate_bhr, hv, hbhr], by simp [afterUpdate_psbhr, hv, hpsbhr]⟩
  rw [afterUpdate_pabhr, hv, if_pos hpabhr]
  exact Memory.entryWritten_rewrite s.bankDefault s.pabhr i.addr _

/-- An `update` of a variant with the per-set bank shifts into the register of its address's set (R140 to R142). -/
theorem exec_update_perSet (hbhr : i.variant.hasBhr = false) (hpabhr : i.variant.hasPabhr = false)
    (hpsbhr : i.variant.hasPsbhr = true) :
    ∃ t, exec i s = .next t ∧ UpdateWrites s t idx (count s.sc o.isTaken) ∧
      EntryWritten s.psbhr t.psbhr (hashK s.cfg.k i.addr) (shl1 (s.psbhrT (hashK s.cfg.k i.addr)) o.bit) ∧
      t.bhr = s.bhr ∧ t.pabhr = s.pabhr := by
  refine ⟨_, exec_update_of_matches hv hn ho hvalid haddr, hidx ▸ afterUpdate_writes s i.addr o, ?_,
    by simp [afterUpdate_bhr, hv, hbhr], by simp [afterUpdate_pabhr, hv, hpabhr]⟩
  rw [afterUpdate_psbhr, hv, if_pos hpsbhr]
  exact Memory.entryWritten_rewrite s.bankDefault s.psbhr (hashK s.cfg.k i.addr) _

end

/-- Settles O32: `BHR` is the index and advances by the mode. -/
theorem gAgUpdateCountsAndAdvancesByMode : Obligations.GAgUpdateCountsAndAdvancesByMode := by
  intro s a o hv hn hvalid haddr
  obtain ⟨t, hexec, hwrites, hbhr, hbanks⟩ := exec_update_global (i := .gagUpdate a o) hv hn rfl hvalid haddr
    ((index_by_variant s a).trans (by rw [hv])) rfl rfl rfl
  refine ⟨t, hexec, hwrites, fun hload => ?_, fun hshift => ?_, hbanks⟩
  · rw [hbhr, advanced_of_load hv hload]
  · rw [hbhr, advanced_of_shift (by simp [hshift])]

/-- Settles O33: the index is the set id and `BHR`, which shifts. -/
theorem gAsUpdateCountsAndShiftsGlobalHistory : Obligations.GAsUpdateCountsAndShiftsGlobalHistory := by
  intro s a o hv hn hvalid haddr
  obtain ⟨t, hexec, hwrites, hbhr, hbanks⟩ := exec_update_global (i := .gasUpdate a o) hv hn rfl hvalid haddr
    ((index_by_variant s a).trans (by rw [hv])) rfl rfl rfl
  refine ⟨t, hexec, hwrites, ?_, hbanks⟩
  rw [hbhr, advanced_of_ne_gag (by simp [hv])]

/-- Settles O34: the index is the register of the address, which shifts. -/
theorem pAgUpdateCountsAndShiftsItsHistory : Obligations.PAgUpdateCountsAndShiftsItsHistory := by
  intro s a o hv hn hvalid haddr
  exact exec_update_perAddress (i := .pagUpdate a o) hv hn rfl hvalid haddr
    ((index_by_variant s a).trans (by rw [hv])) rfl rfl rfl

/-- Settles O35: the index is the address and its register, which shifts. -/
theorem pApUpdateCountsInItsOwnSubTable : Obligations.PApUpdateCountsInItsOwnSubTable := by
  intro s a o hv hn hvalid haddr
  exact exec_update_perAddress (i := .papUpdate a o) hv hn rfl hvalid haddr
    ((index_by_variant s a).trans (by rw [hv])) rfl rfl rfl

/-- Settles O36: the index is the register of the set, which shifts. -/
theorem sAgUpdateCountsAndShiftsItsSetHistory : Obligations.SAgUpdateCountsAndShiftsItsSetHistory := by
  intro s a o hv hn hvalid haddr
  exact exec_update_perSet (i := .sagUpdate a o) hv hn rfl hvalid haddr
    ((index_by_variant s a).trans (by rw [hv])) rfl rfl rfl

/-- Settles O37: the index is the address and the register of its set, which is read and shifted under one set id. -/
theorem sApUpdateCountsInItsOwnSubTable : Obligations.SApUpdateCountsInItsOwnSubTable := by
  intro s a o hv hn hvalid haddr
  exact exec_update_perSet (i := .sapUpdate a o) hv hn rfl hvalid haddr
    ((index_by_variant s a).trans (by rw [hv])) rfl rfl rfl

/-- Settles O38: the index is the set id and the register of the set, which shifts. -/
theorem sAsUpdateCountsInTheSubTableOfItsSet : Obligations.SAsUpdateCountsInTheSubTableOfItsSet := by
  intro s a o hv hn hvalid haddr
  exact exec_update_perSet (i := .sasUpdate a o) hv hn rfl hvalid haddr
    ((index_by_variant s a).trans (by rw [hv])) rfl rfl rfl

/-! ## The footprint (R143) -/

/-- The per-address bank is keyed by the address (R27, R99). -/
theorem hrKey_of_hasPabhr (h : c.variant.hasPabhr = true) : hrKey c a = some a := by
  cases hv : c.variant <;> simp_all [hrKey, Variant.hasPabhr]

/-- The per-set bank is keyed by the set id (R28, R99). -/
theorem hrKey_of_hasPsbhr (h : c.variant.hasPsbhr = true) : hrKey c a = some (hashK c.k a) := by
  cases hv : c.variant <;> simp_all [hrKey, Variant.hasPsbhr]

/-- An `update` leaves alone every register of the per-address bank but the one under its bank key. -/
theorem afterUpdate_pabhr_get_of_ne (hq : hrKey s.cfg a ≠ some q) :
    (s.afterUpdate a o).pabhr.get q = s.pabhr.get q := by
  rw [afterUpdate_pabhr]
  split
  next h =>
    rw [hrKey_of_hasPabhr h] at hq
    exact (Memory.entryWritten_rewrite _ s.pabhr a _).2 q fun hqa => hq (congrArg some hqa.symm)
  next => rfl

/-- An `update` leaves alone every register of the per-set bank but the one under its bank key. -/
theorem afterUpdate_psbhr_get_of_ne (hq : hrKey s.cfg a ≠ some q) :
    (s.afterUpdate a o).psbhr.get q = s.psbhr.get q := by
  rw [afterUpdate_psbhr]
  split
  next h =>
    rw [hrKey_of_hasPsbhr h] at hq
    exact (Memory.entryWritten_rewrite _ s.psbhr _ _).2 q fun hqa => hq (congrArg some hqa.symm)
  next => rfl

/-- Settles O42: what an accepted `update` writes, field by field, and what follows a refusal. -/
theorem updateWritesOneEntryAndOneHistoryRegister : Obligations.UpdateWritesOneEntryAndOneHistoryRegister := by
  intro i s hop
  obtain ⟨o, ho⟩ := op_eq_update_iff.mp hop
  refine ⟨fun t h => ?_, fun cause _ => afterRefusal_sameElements s cause⟩
  obtain rfl := exec_update_next ho h
  obtain ⟨⟨hentry, hothers⟩, hsc, hscValid, hscAddr, -, hcfg, hinput, hdraws⟩ := afterUpdate_writes s i.addr o
  exact ⟨hothers, by rw [Memory.present, hentry, Option.isSome_some],
    fun hbhr => by simp [afterUpdate_bhr, hbhr], fun hpabhr => by simp [afterUpdate_pabhr, hpabhr],
    fun hpsbhr => by simp [afterUpdate_psbhr, hpsbhr],
    fun q hq => ⟨afterUpdate_pabhr_get_of_ne hq, afterUpdate_psbhr_get_of_ne hq⟩,
    hsc, hscAddr, hscValid, hcfg, hinput, hdraws⟩

/-! ## The update without the hidden register (R144) -/

/-- While a prediction is pending, `SC` is the table's block at the index of its address. -/
theorem State.Inv.sc_eq_phtT (hinv : s.Inv) (hvalid : s.scValid = true) : s.sc = s.phtT (s.index s.scAddr) := by
  rw [State.phtT, Memory.total, hinv.pending_block hvalid, Option.getD_some]

/-- The table after an `update`, in the total view (R33). -/
theorem afterUpdate_phtT :
    (s.afterUpdate a o).phtT q = if q = s.index a then count s.sc o.isTaken else s.phtT q := by
  simp only [State.phtT, State.phtDefault, afterUpdate_cfg, afterUpdate_pht]
  exact s.pht.total_put (s.index a) (count s.sc o.isTaken) q (zeros s.cfg.w)

/-- Settles O43: by the invariant `SC` is the block that the `update` overwrites with its count. -/
theorem updateCountsTheEntryItOverwrites : Obligations.UpdateCountsTheEntryItOverwrites := by
  intro i o s t hinv ho h
  obtain ⟨hvalid, haddr⟩ := exec_update_matches ho h
  obtain rfl := exec_update_next ho h
  have hsc : s.sc = s.phtT (s.index i.addr) := haddr ▸ hinv.sc_eq_phtT hvalid
  refine ⟨hsc, ?_, fun q hq => ?_, ?_⟩
  · rw [afterUpdate_phtT, if_pos rfl, hsc]
  · rw [afterUpdate_phtT, if_neg hq]
  · rw [afterUpdate_hr, if_pos rfl, hsc]

end Sys2Proof.Machine

/-!
SUPPORT. The refusal of a command (60_exceptions.md section 1): every cause with its condition, in the order of R156,
and the statement O48 (R159).
-/

namespace Sys2Proof.Machine

variable {s : State} {i : Instr} {a : Bits} {v : Variant} {body : Result} {cause : Refusal}

/-- What a command is refused for: its variant, else the width of its operand, else what its body is refused for. -/
theorem onOperand_refused_iff :
    onOperand v a s body = .refused cause ↔
      s.cfg.variant ≠ v ∧ cause = .noSuchOperation v ∨
      s.cfg.variant = v ∧ a.length ≠ s.cfg.n ∧ cause = .operandWidth a.length ∨
      s.cfg.variant = v ∧ a.length = s.cfg.n ∧ body = .refused cause := by
  unfold onOperand refuse
  split
  next hv => simp [hv, eq_comm]
  next hv =>
    split
    next hn => simp [not_not.mp hv, hn, eq_comm]
    next hn => simp [not_not.mp hv, not_not.mp hn]

/-- Everything a command can be refused for: the boundary checks (R73, R150), and for an `update` alone the match
(R131, R151). Past them every body completes, so no history register and no table is asked. -/
theorem exec_refused_iff :
    exec i s = .refused cause ↔
      s.cfg.variant ≠ i.variant ∧ cause = .noSuchOperation i.variant ∨
      s.cfg.variant = i.variant ∧ i.addr.length ≠ s.cfg.n ∧ cause = .operandWidth i.addr.length ∨
      s.cfg.variant = i.variant ∧ i.addr.length = s.cfg.n ∧ i.op = .update ∧
        ¬(s.scValid = true ∧ s.scAddr = i.addr) ∧ cause = .protocolViolation i.addr := by
  cases ho : i.actual with
  | none =>
    have hop : i.op = .predict := op_eq_predict_iff.mpr ho
    rw [exec_predict ho, onOperand_refused_iff]
    simp [hop]
  | some o =>
    have hop : i.op = .update := op_eq_update_iff.mpr ⟨o, ho⟩
    rw [exec_update ho, onOperand_refused_iff, onMatch_refused_iff]
    simp only [hop, true_and]

/-- Settles O48: the conditions of every refusal name the configuration, `SC_valid`, `SC_addr` and the command alone. -/
theorem refusalDependsOnProtocolStateAlone : Obligations.RefusalDependsOnProtocolStateAlone := by
  intro i s t hcfg hvalid haddr cause
  rw [exec_refused_iff, exec_refused_iff, hcfg, hvalid, haddr]

end Sys2Proof.Machine

/-!
SUPPORT. Which command sequences run through (70_reset_and_hazards.md section 3): the ordering rule (R173) carried by the
address of the pending prediction, its agreement with the grammar of R174, and the statements O52 and O53.
-/

namespace Sys2Proof.Machine

variable {s : State} {i q : Instr} {is ps : List Instr} {a : Bits} {o : BranchResult} {p : Option Bits}

/-! ## The pending prediction (R31) -/

theorem pending_eq_some_iff : s.pending = some a ↔ s.scValid = true ∧ s.scAddr = a := by simp [State.pending]

@[simp] theorem afterPredict_pending : (s.afterPredict a).pending = some a := by simp [State.pending]

@[simp] theorem afterUpdate_pending : (s.afterUpdate a o).pending = none := by simp [State.pending]

@[simp] theorem resetOf_pending (c : Config) (d : Nat) : (State.resetOf c d).pending = none := rfl

/-! ## The ordering rule, command by command -/

@[simp] theorem acceptable_nil : acceptable p [] := trivial

theorem acceptable_cons_predict (h : i.op = .predict) : acceptable p (i :: is) ↔ acceptable (some i.addr) is := by
  simp [acceptable, h]

theorem acceptable_cons_update (h : i.op = .update) :
    acceptable p (i :: is) ↔ p = some i.addr ∧ acceptable none is := by
  simp [acceptable, h]

/-- A well-formed command is accepted, and leaves the ordering rule to ask of the commands after it what it asked of
all; or it is an `update` that the rule excludes, and is refused with `ProtocolViolation` (R131, R175). -/
theorem exec_follows_orderingRule (hwf : i.wf s.cfg = true) :
    (∃ t, exec i s = .next t ∧ ∀ is, acceptable s.pending (i :: is) ↔ acceptable t.pending is) ∨
    exec i s = .refused (.protocolViolation i.addr) ∧ ∀ is, ¬acceptable s.pending (i :: is) := by
  cases ho : i.actual with
  | none =>
    obtain ⟨hv, hn⟩ := Instr.wf_iff.mp hwf
    refine .inl ⟨_, exec_predict_of_fits hv.symm hn ho, fun is => ?_⟩
    rw [acceptable_cons_predict (op_eq_predict_iff.mpr ho), afterPredict_pending]
  | some o =>
    have hop : i.op = .update := op_eq_update_iff.mpr ⟨o, ho⟩
    rw [exec_update_of_wf hwf ho]
    simp only [acceptable_cons_update hop, pending_eq_some_iff]
    by_cases hmatch : s.scValid = true ∧ s.scAddr = i.addr
    · obtain ⟨hvalid, haddr⟩ := hmatch
      exact .inl ⟨_, onMatch_pass hvalid haddr, fun is => by simp [hvalid, haddr]⟩
    · exact .inr ⟨onMatch_refused hmatch, fun is ⟨h, _⟩ => hmatch h⟩

/-- A run of well-formed commands completes where the ordering rule accepts it, and ends in a `ProtocolViolation`
where it does not (R173, R175). -/
theorem execAll_follows_orderingRule (hwf : ∀ i ∈ is, i.wf s.cfg = true) :
    (acceptable s.pending is ∧ ∃ t, execAll is s = .next t) ∨
    (¬acceptable s.pending is ∧ ∃ a, execAll is s = .refused (.protocolViolation a)) := by
  induction is generalizing s with
  | nil => exact .inl ⟨acceptable_nil, s, rfl⟩
  | cons i is ih =>
    obtain ⟨hi, his⟩ := List.forall_mem_cons.mp hwf
    obtain ⟨t, ht, hrule⟩ | ⟨hrefused, hrule⟩ := exec_follows_orderingRule hi
    · rw [hrule, execAll_cons_of_next ht]
      exact ih (exec_cfg ht ▸ his)
    · exact .inr ⟨hrule is, i.addr, by simp only [execAll, hrefused]⟩

theorem execAll_next_iff_acceptable (hwf : ∀ i ∈ is, i.wf s.cfg = true) :
    (∃ t, execAll is s = .next t) ↔ acceptable s.pending is := by
  obtain ⟨hacc, hnext⟩ | ⟨hacc, a, hrefused⟩ := execAll_follows_orderingRule hwf
  · exact iff_of_true hnext hacc
  · exact iff_of_false (by simp [hrefused]) hacc

/-- Settles O52, by induction over the run with the pending address carried from command to command. -/
theorem runsAreAcceptedByTheOrderingRule : Obligations.RunsAreAcceptedByTheOrderingRule :=
  fun _ _ => execAll_next_iff_acceptable

/-! ## The grammar (R174) -/

/-- `predict`s in front change nothing for a rest that no pending prediction is asked for. -/
theorem acceptable_predicts_append (hps : ∀ i ∈ ps, i.op = .predict) (hrest : ∀ p, acceptable p is) :
    acceptable p (ps ++ is) := by
  induction ps generalizing p with
  | nil => exact hrest p
  | cons i ps ih =>
    obtain ⟨hi, hps⟩ := List.forall_mem_cons.mp hps
    exact (acceptable_cons_predict hi).mpr (ih hps)

/-- A run of the grammar asks for no pending prediction: each of its `update`s has its `predict` in the run. -/
theorem acceptable_of_legalRun (h : LegalRun is) (p : Option Bits) : acceptable p is := by
  induction h generalizing p with
  | nil => exact acceptable_nil
  | tail ps predicts =>
    rw [← List.append_nil ps]
    exact acceptable_predicts_append predicts fun _ => acceptable_nil
  | episode ps q u rest predicts last ends matching _ ih =>
    refine acceptable_predicts_append predicts fun _ => ?_
    rw [acceptable_cons_predict last, acceptable_cons_update ends, matching]
    exact ⟨rfl, ih none⟩

/-- One more `predict` in front joins the first episode, or the tail. -/
theorem LegalRun.cons_predict (hq : q.op = .predict) (h : LegalRun is) : LegalRun (q :: is) := by
  cases h with
  | nil => exact .tail [q] (by simpa)
  | tail _ predicts => exact .tail (q :: is) (List.forall_mem_cons.mpr ⟨hq, predicts⟩)
  | episode ps q' u rest predicts last ends matching more =>
    exact .episode (q :: ps) q' u rest (List.forall_mem_cons.mpr ⟨hq, predicts⟩) last ends matching more

/-- A sequence that the ordering rule accepts is of the grammar: with nothing pending, as it stands; with a
prediction pending, once the `predict` that left it is put in front. -/
theorem legalRun_of_acceptable :
    (acceptable none is → LegalRun is) ∧
    ∀ q : Instr, q.op = .predict → acceptable (some q.addr) is → LegalRun (q :: is) := by
  induction is with
  | nil => exact ⟨fun _ => .nil, fun q hq _ => LegalRun.nil.cons_predict hq⟩
  | cons i is ih =>
    obtain ⟨ihNone, ihSome⟩ := ih
    cases hi : i.op with
    | predict =>
      simp only [acceptable_cons_predict hi]
      exact ⟨ihSome i hi, fun q hq h => (ihSome i hi h).cons_predict hq⟩
    | update =>
      simp only [acceptable_cons_update hi]
      constructor
      · rintro ⟨hpending, -⟩
        cases hpending
      · rintro q hq ⟨hmatch, hrest⟩
        exact .episode [] q i is (by simp) hq hi (Option.some.inj hmatch).symm (ihNone hrest)

/-- With nothing pending, the ordering rule accepts exactly the runs of the grammar. -/
theorem acceptable_none_iff_legalRun : acceptable none is ↔ LegalRun is :=
  ⟨legalRun_of_acceptable.1, fun h => acceptable_of_legalRun h none⟩

/-- Settles O53: at construction nothing is pending, so the ordering rule is the grammar. -/
theorem legalRunsAreExactlyTheGrammar : Obligations.LegalRunsAreExactlyTheGrammar := by
  intro c is _ hwf
  rw [← acceptable_none_iff_legalRun, ← resetOf_pending c 0]
  refine ⟨execAll_next_iff_acceptable hwf, fun hnot => ?_⟩
  obtain ⟨hacc, -⟩ | ⟨-, hrefused⟩ := execAll_follows_orderingRule (s := State.resetOf c 0) hwf
  · exact absurd hacc hnot
  · exact hrefused

end Sys2Proof.Machine

/-!
SUPPORT. The instance right after construction (70_reset_and_hazards.md section 1): what construction answers, what reads
of nothing stored give, and the statements O18 (R166, R167) and O50 (R169).
-/

namespace Sys2Proof.Machine

variable {c : Config} {s : State}

/-- Construction from a well-formed configuration answers its reset state (R166). -/
theorem construct_of_wf (h : c.wf) : construct c = .next (State.resetOf c 0) := by
  obtain ⟨hmodes, hclauses⟩ := construct_next_iff.mp (construct_next_iff_wf.mpr h)
  simp only [construct, hmodes, hclauses]

/-- A space with no key reads as its default (R33). -/
@[simp] theorem Memory.total_nil (d k : Bits) : Memory.total d [] k = d := rfl

@[simp] theorem Memory.present_nil (k : Bits) : Memory.present [] k = false := rfl

/-- Settles O18: each register and each space by the equation of `State.resetOf` that gives it. -/
theorem constructedInstanceIsInTheResetState : Obligations.ConstructedInstanceIsInTheResetState := by
  intro c hwf
  exact ⟨State.resetOf c 0, construct_of_wf hwf, rfl, rfl,
    fun k => ⟨Memory.present_nil k, Memory.total_nil _ k⟩,
    fun k => ⟨Memory.present_nil k, Memory.total_nil _ k⟩,
    fun k => ⟨Memory.present_nil k, Memory.total_nil _ k⟩,
    rfl, rfl, rfl, rfl, bv_length _ _, bv_length _ _⟩

/-- The leading bit of `0^n` is 0, and a vector without bits counts as such: NotTaken (R85). -/
@[simp] theorem predictionOf_zeros (n : Nat) : predictionOf (zeros n) = .notTaken := by
  simp [predictionOf, BranchResult.of]

/-- With an empty table every block reads `0^W`, so the prediction is NotTaken whatever the index is (R169). -/
theorem afterPredict_responses_of_empty_pht (h : s.pht = []) (a : Bits) :
    (s.afterPredict a).responses = s.responses ++ [.predicted .notTaken] := by
  simp [State.phtT, State.phtDefault, h]

/-- Settles O50: the reset state is one of the states with an empty table. -/
theorem firstPredictionIsNotTaken : Obligations.FirstPredictionIsNotTaken := by
  intro c d i _ hwf hop
  have key : ∀ s : State, s.cfg = c → s.pht = [] →
      ∃ t, exec i s = .next t ∧ t.responses = s.responses ++ [.predicted .notTaken] := by
    rintro s rfl hpht
    obtain ⟨hv, hn⟩ := Instr.wf_iff.mp hwf
    exact ⟨_, exec_predict_of_fits hv.symm hn (op_eq_predict_iff.mp hop), afterPredict_responses_of_empty_pht hpht _⟩
  exact ⟨key (State.resetOf c d) rfl rfl, key⟩

end Sys2Proof.Machine

/-!
SUPPORT. The invariant of an instance (10_state.md section 6): what holds of it at construction and across each command,
clause by clause; and the statements O21 and O22.
-/

namespace Sys2Proof.Machine

variable {s t : State} {i : Instr} {a : Bits} {o : BranchResult}

namespace State.Inv

/-- The invariant is the widths of R35 and the clauses that are not about widths. -/
theorem of_widths (hw : s.Widths) (hwf : s.cfg.wf) (hbhr : s.cfg.variant.hasBhr = false → s.bhr = zeros s.cfg.b)
    (hpabhr : s.cfg.variant.hasPabhr = false → s.pabhr = [])
    (hpsbhr : s.cfg.variant.hasPsbhr = false → s.psbhr = [])
    (hpending : s.scValid = true → s.pht.get (s.index s.scAddr) = some s.sc) : s.Inv :=
  ⟨hwf, hw.bhr, hw.pabhr, hw.psbhr, hw.pht, hw.sc, hw.scAddr, hbhr, hpabhr, hpsbhr, hpending⟩

/-- At construction every element has its reset value and nothing is pending (R167). -/
theorem resetOf {c : Config} (hwf : c.wf) (d : Nat) : (State.resetOf c d).Inv :=
  of_widths (.resetOf c d) hwf (fun _ => rfl) (fun _ => rfl) (fun _ => rfl) (fun hvalid => by simp at hvalid)

theorem resetInput (h : s.Inv) : s.resetInput.Inv := { resetOf h.cfg_wf s.draws with }

theorem dropInput (h : s.Inv) : s.dropInput.Inv := { h with }

/-- An accepted `predict` keeps the invariant: it loads into `SC` the block it has made present at its index, and
moves no index (R114, R109). -/
theorem afterPredict (h : s.Inv) (hn : a.length = s.cfg.n) : (s.afterPredict a).Inv := by
  refine of_widths (h.widths.afterPredict hn) ?_ ?_ ?_ ?_ fun _ => ?_
  · rw [afterPredict_cfg]
    exact h.cfg_wf
  · rw [afterPredict_cfg, afterPredict_bhr]
    exact h.bhr_absent
  · rw [afterPredict_cfg, afterPredict_pabhr]
    intro hlacks
    simpa [hlacks] using h.pabhr_absent hlacks
  · rw [afterPredict_cfg, afterPredict_psbhr]
    intro hlacks
    simpa [hlacks] using h.psbhr_absent hlacks
  · rw [afterPredict_scAddr, afterPredict_index, afterPredict_sc]
    exact (afterPredict_writes s a).entry.1

/-- An accepted `update` keeps the invariant: it ends the validity of `SC`, so nothing is left to tie (R132). -/
theorem afterUpdate (h : s.Inv) (hn : a.length = s.cfg.n) (o : BranchResult) : (s.afterUpdate a o).Inv := by
  refine of_widths (h.widths.afterUpdate h.cfg_wf hn o) ?_ ?_ ?_ ?_ fun hvalid => ?_
  · rw [afterUpdate_cfg]
    exact h.cfg_wf
  · rw [afterUpdate_cfg, afterUpdate_bhr]
    intro hlacks
    simpa [hlacks] using h.bhr_absent hlacks
  · rw [afterUpdate_cfg, afterUpdate_pabhr]
    intro hlacks
    simpa [hlacks] using h.pabhr_absent hlacks
  · rw [afterUpdate_cfg, afterUpdate_psbhr]
    intro hlacks
    simpa [hlacks] using h.psbhr_absent hlacks
  · rw [afterUpdate_scValid] at hvalid
    cases hvalid

/-- Every accepted command keeps the invariant. -/
theorem of_exec (h : s.Inv) (hexec : exec i s = .next t) : t.Inv := by
  obtain ⟨-, hn, ⟨-, rfl⟩ | ⟨o, -, -, -, rfl⟩⟩ := exec_next_cases hexec
  · exact h.afterPredict hn
  · exact h.afterUpdate hn o

end State.Inv

/-- Settles O22: a step does nothing, or is the reset input, or an accepted command. -/
theorem everyStepKeepsTheInvariant : Obligations.EveryStepKeepsTheInvariant := by
  intro s t hinv hstep
  obtain ⟨-, rfl⟩ | ⟨r, -, rfl⟩ | ⟨w, r, i, -, -, hexec⟩ := step_next_cases hstep
  · exact hinv
  · exact hinv.dropInput.resetInput
  · exact hinv.dropInput.of_exec hexec

/-- Settles O21: the reset state of a well-formed configuration, of which `Config.initial` is one. -/
theorem invariantHoldsAtConstruction : Obligations.InvariantHoldsAtConstruction :=
  ⟨fun _ d hwf => State.Inv.resetOf hwf d, State.Inv.resetOf (by decide) 0⟩

end Sys2Proof.Machine

/-!
SUPPORT. Pairs of instances that answer every command alike: the rule by which a relation of two states is shown to be
kept by commands, and its extension to runs; and the statement O54 (10_state.md section 5).
-/

namespace Sys2Proof.Machine

variable {s t u : State} {i j : Instr} {is : List Instr} {a q : Bits} {o : BranchResult} {R : State → State → Prop}

/-! ## Commands that are answered alike -/

/-- Two states that refuse the same commands: N and the protocol state agree (R159). -/
structure SameProtocol (s u : State) : Prop where
  n : s.cfg.n = u.cfg.n
  scValid : s.scValid = u.scValid
  scAddr : s.scAddr = u.scAddr

/-- Two states of the same protocol state answer a command, each as its own variant's operation, alike, if the blocks
that a `predict` reads agree and the states after a `predict` and after a matching `update` are related. -/
theorem answerAlike_exec (hs : s.cfg.variant = i.variant) (hu : u.cfg.variant = j.variant)
    (haddr : j.addr = i.addr) (hactual : j.actual = i.actual) (hprotocol : SameProtocol s u)
    (hpredict : i.addr.length = s.cfg.n → s.phtT (s.index i.addr) = u.phtT (u.index i.addr) ∧
      R (s.afterPredict i.addr) (u.afterPredict i.addr))
    (hupdate : i.addr.length = s.cfg.n → s.scValid = true → s.scAddr = i.addr → ∀ o,
      R (s.afterUpdate i.addr o) (u.afterUpdate i.addr o)) :
    AnswerAlike R s u (exec i s) (exec j u) := by
  obtain ⟨hn, hvalid, hscAddr⟩ := hprotocol
  by_cases hfits : i.addr.length = s.cfg.n
  · cases ho : i.actual with
    | none =>
      obtain ⟨hread, hR⟩ := hpredict hfits
      refine .inl ⟨_, _, .predicted (predictionOf (s.phtT (s.index i.addr))), exec_predict_of_fits hs hfits ho, ?_, hR,
        afterPredict_responses, ?_⟩
      · rw [← haddr]
        exact exec_predict_of_fits hu (by rw [haddr, hfits, hn]) (hactual.trans ho)
      · rw [afterPredict_responses, hread]
    | some o =>
      rw [exec_update ho, exec_update (hactual.trans ho), onOperand_pass hs hfits,
        onOperand_pass hu (by rw [haddr, hfits, hn]), haddr]
      by_cases hmatch : s.scValid = true ∧ s.scAddr = i.addr
      · obtain ⟨hpending, hsame⟩ := hmatch
        exact .inl ⟨_, _, .updated, onMatch_pass hpending hsame, onMatch_pass (hvalid ▸ hpending) (hscAddr ▸ hsame),
          hupdate hfits hpending hsame o, afterUpdate_responses, afterUpdate_responses⟩
      · refine .inr ⟨_, onMatch_refused hmatch, onMatch_refused ?_⟩
        rwa [← hvalid, ← hscAddr]
  · refine .inr ⟨.operandWidth i.addr.length, exec_refused_iff.mpr (.inr (.inl ⟨hs, hfits, rfl⟩)),
      exec_refused_iff.mpr (.inr (.inl ⟨hu, ?_, by rw [haddr]⟩))⟩
    rwa [haddr, ← hn]

/-- If two instances of fixed configurations answer each command of a sequence alike, they run the sequence alike: both
accept it, with the same responses, or both refuse it with one cause. -/
theorem execAll_alike {α : Type} {f g : α → Instr} {xs : List α} {c d : Config}
    (hstep : ∀ x ∈ xs, ∀ s u, s.cfg = c → u.cfg = d → R s u → AnswerAlike R s u (exec (f x) s) (exec (g x) u))
    (hs : s.cfg = c) (hu : u.cfg = d) (hR : R s u) (hresponses : s.responses = u.responses) :
    (∃ s' u', execAll (xs.map f) s = .next s' ∧ execAll (xs.map g) u = .next u' ∧ R s' u' ∧
      s'.responses = u'.responses) ∨
    ∃ cause, execAll (xs.map f) s = .refused cause ∧ execAll (xs.map g) u = .refused cause := by
  induction xs generalizing s u with
  | nil => exact .inl ⟨s, u, rfl, rfl, hR, hresponses⟩
  | cons x xs ih =>
    obtain ⟨hx, hxs⟩ := List.forall_mem_cons.mp hstep
    rw [List.map_cons, List.map_cons]
    obtain ⟨s', u', r, hs', hu', hR', hrs, hru⟩ | ⟨cause, hsr, hur⟩ := hx s u hs hu hR
    · rw [execAll_cons_of_next hs', execAll_cons_of_next hu']
      exact ih hxs ((exec_cfg hs').trans hs) ((exec_cfg hu').trans hu) hR' (by rw [hrs, hru, hresponses])
    · exact .inr ⟨cause, by simp only [execAll, hsr], by simp only [execAll, hur]⟩

/-! ## The total view after an `update` -/

/-- An entry written, in the total view (R33). -/
theorem EntryWritten.total_eq_ite {m m' : Memory} {k v : Bits} (h : EntryWritten m m' k v) (d q : Bits) :
    m'.total d q = if q = k then v else m.total d q := by
  obtain ⟨hself, hother⟩ := h
  split
  next hq => rw [hq, Memory.total, hself, Option.getD_some]
  next hq => rw [Memory.total, hother q hq, Memory.total]

/-- The per-address bank after an `update`, in the total view. -/
theorem afterUpdate_pabhrT :
    (s.afterUpdate a o).pabhrT q =
      if s.cfg.variant.hasPabhr = true ∧ q = a then shl1 (s.pabhrT a) o.bit else s.pabhrT q := by
  simp only [State.pabhrT, State.bankDefault, afterUpdate_cfg, afterUpdate_pabhr, ite_and]
  split
  · exact (Memory.entryWritten_rewrite _ s.pabhr a _).total_eq_ite _ q
  · rfl

/-- The per-set bank after an `update`, in the total view. -/
theorem afterUpdate_psbhrT :
    (s.afterUpdate a o).psbhrT q =
      if s.cfg.variant.hasPsbhr = true ∧ q = hashK s.cfg.k a then shl1 (s.psbhrT (hashK s.cfg.k a)) o.bit
      else s.psbhrT q := by
  simp only [State.psbhrT, State.bankDefault, afterUpdate_cfg, afterUpdate_psbhr, ite_and]
  split
  · exact (Memory.entryWritten_rewrite _ s.psbhr _ _).total_eq_ite _ q
  · rfl

/-! ## Presence is unobservable (R33) -/

namespace SameView

theorem sameProtocol (h : SameView s t) : SameProtocol s t := ⟨by rw [h.cfg], h.scValid, h.scAddr⟩

/-- The index reads registers in the total view alone. -/
theorem index (h : SameView s t) (a : Bits) : s.index a = t.index a := by
  rw [index_by_variant, index_by_variant, h.cfg, h.bhr, h.pabhr, h.psbhr]

/-- Two states of one view have one view after a `predict`, which changes the view in `SC` alone. -/
theorem afterPredict (h : SameView s t) (a : Bits) : SameView (s.afterPredict a) (t.afterPredict a) where
  cfg := by simp [h.cfg]
  bhr := by simp [h.bhr]
  pabhr k := by simp [h.pabhr]
  psbhr k := by simp [h.psbhr]
  pht k := by simp [h.pht]
  sc := by simp [h.pht, h.index]
  scValid := by simp
  scAddr := by simp
  responses := by simp [h.responses, h.pht, h.index]

/-- Two states of one view have one view after an `update`, whose operands are all read from the view. -/
theorem afterUpdate (h : SameView s t) (a : Bits) (o : BranchResult) :
    SameView (s.afterUpdate a o) (t.afterUpdate a o) where
  cfg := by simp [h.cfg]
  bhr := by simp [afterUpdate_bhr, h.cfg, h.bhr, h.sc]
  pabhr k := by simp [afterUpdate_pabhrT, h.cfg, h.pabhr]
  psbhr k := by simp [afterUpdate_psbhrT, h.cfg, h.psbhr]
  pht k := by simp [afterUpdate_phtT, h.index, h.sc, h.pht]
  sc := by simp [h.sc]
  scValid := by simp
  scAddr := by simp [h.scAddr]
  responses := by simp [h.responses]

/-- States of one view answer every command alike, an operation of another variant too (R33). -/
theorem answerAlike (h : SameView s t) (i : Instr) : AnswerAlike SameView s t (exec i s) (exec i t) := by
  by_cases hv : s.cfg.variant = i.variant
  · exact answerAlike_exec hv (h.cfg ▸ hv) rfl rfl h.sameProtocol
      (fun _ => ⟨by rw [h.index, h.pht], h.afterPredict _⟩) fun _ _ _ => h.afterUpdate _
  · exact .inr ⟨_, exec_refused_iff.mpr (.inl ⟨hv, rfl⟩), exec_refused_iff.mpr (.inl ⟨h.cfg ▸ hv, rfl⟩)⟩

end SameView

/-- Settles O54, by induction over the run with the agreement of the total views as the relation kept. -/
theorem totalViewDeterminesEveryRun : Obligations.TotalViewDeterminesEveryRun := by
  intro is s t h
  have hrun := execAll_alike (f := id) (g := id) (xs := is) (fun i _ _ _ _ _ h => h.answerAlike i) rfl rfl h h.responses
  rw [List.map_id] at hrun
  obtain ⟨s', t', hs, ht, hview, -⟩ | ⟨cause, hs, ht⟩ := hrun
  · rw [hs, ht]
    refine ⟨fun s'' hs'' => ?_, by simp⟩
    cases hs''
    exact ⟨t', rfl, hview⟩
  · simp [hs, ht]

end Sys2Proof.Machine

/-!
SUPPORT. Two pairs of variants that answer alike: GAg in `SHIFT_OUTCOME` mode and PAg under one address (O55, R145(a)),
and a variant keyed by the set id and the one keyed by the address, for K at least N (O56, R112(a)).
-/

namespace Sys2Proof.Machine

variable {s u g p : State} {a b : Bits} {o : BranchResult}

/-! ## A legal run on two variants -/

/-- A command means on two variants operations with one outcome operand (R66, R75). -/
theorem ofCommand_actual_eq (v w : Variant) (x : Command) :
    (Instr.ofCommand v x).actual = (Instr.ofCommand w x).actual := by
  obtain ⟨op, addr, actual⟩ := x
  cases op <;> simp

/-- A legal run of N-bit addresses is accepted from construction (R174). -/
theorem execAll_resetOf_of_legalRun {c : Config} {cmds : List Command} (hn : ∀ x ∈ cmds, x.addr.length = c.n)
    (hlegal : LegalRun (cmds.map (Instr.ofCommand c.variant))) (d : Nat) :
    ∃ t, execAll (cmds.map (Instr.ofCommand c.variant)) (State.resetOf c d) = .next t := by
  refine (execAll_next_iff_acceptable fun i hi => ?_).mpr (acceptable_of_legalRun hlegal _)
  obtain ⟨x, hx, rfl⟩ := List.mem_map.mp hi
  exact Instr.wf_iff.mpr ⟨by simp, by simpa using hn x hx⟩

/-- If instances of two variants answer every command of a legal run alike, from construction on, then both accept the
run and give the same responses. -/
theorem legalRun_alike {R : State → State → Prop} {c d : Config} {cmds : List Command}
    (hstep : ∀ x ∈ cmds, ∀ s u, s.cfg = c → u.cfg = d → R s u →
      AnswerAlike R s u (exec (Instr.ofCommand c.variant x) s) (exec (Instr.ofCommand d.variant x) u))
    (hreset : R (State.resetOf c 0) (State.resetOf d 0)) (hn : ∀ x ∈ cmds, x.addr.length = c.n)
    (hlegal : LegalRun (cmds.map (Instr.ofCommand c.variant))) :
    ∃ t v, execAll (cmds.map (Instr.ofCommand c.variant)) (State.resetOf c 0) = .next t ∧
      execAll (cmds.map (Instr.ofCommand d.variant)) (State.resetOf d 0) = .next v ∧ R t v ∧
      t.responses = v.responses := by
  obtain hrun | ⟨cause, hrefused, -⟩ := execAll_alike hstep rfl rfl hreset rfl
  · exact hrun
  · obtain ⟨t, hnext⟩ := execAll_resetOf_of_legalRun hn hlegal 0
    rw [hrefused] at hnext
    cases hnext

/-- Two configurations of one N draw the same content of `SC_addr` at construction. -/
theorem resetOf_sameProtocol {c d : Config} (hn : c.n = d.n) (k : Nat) :
    SameProtocol (State.resetOf c k) (State.resetOf d k) :=
  ⟨hn, rfl, congrArg (fun n => bv n (Config.unspecified (k + 1) n).toNat) hn⟩

/-! ## GAg with shift-in, and PAg under one address (R145(a)) -/

namespace OneAddressPair

theorem sameProtocol (h : OneAddressPair a g p) : SameProtocol g p := ⟨h.n, h.scValid, h.scAddr⟩

theorem index (h : OneAddressPair a g p) : g.index a = p.index a := by
  rw [index_by_variant, index_by_variant, h.gag, h.pag]
  exact h.history

theorem afterPredict (h : OneAddressPair a g p) : OneAddressPair a (g.afterPredict a) (p.afterPredict a) where
  gag := by simp [h.gag]
  shifts := by simp [h.shifts]
  pag := by simp [h.pag]
  n := by simp [h.n]
  b := by simp [h.b]
  w := by simp [h.w]
  history := by simp [h.history]
  pht k := by simp [h.pht]
  scValid := by simp
  scAddr := by simp
  sc _ := by simp [h.pht, h.index]

/-- A matching `update` shifts one outcome into both registers, and writes one count at one index. -/
theorem afterUpdate (h : OneAddressPair a g p) (hvalid : g.scValid = true) (o : BranchResult) :
    OneAddressPair a (g.afterUpdate a o) (p.afterUpdate a o) where
  gag := by simp [h.gag]
  shifts := by simp [h.shifts]
  pag := by simp [h.pag]
  n := by simp [h.n]
  b := by simp [h.b]
  w := by simp [h.w]
  history := by
    have hshift : ¬(g.cfg.variant = .GAg ∧ g.cfg.gagHistMode = .loadCounter) := by simp [h.shifts]
    simp [afterUpdate_bhr, afterUpdate_pabhrT, advanced_of_shift hshift, h.gag, h.pag, Variant.hasBhr,
      Variant.hasPabhr, h.history]
  pht k := by simp [afterUpdate_phtT, h.index, h.sc hvalid, h.pht]
  scValid := by simp
  scAddr := by simp [h.scAddr]
  sc hstill := by simp at hstill

/-- A command on the one address is answered alike, since it finds one index and one pending prediction. -/
theorem answerAlike (h : OneAddressPair a g p) {x : Command} (hx : x.addr = a) :
    AnswerAlike (OneAddressPair a) g p (exec (Instr.ofCommand .GAg x) g) (exec (Instr.ofCommand .PAg x) p) := by
  subst hx
  refine answerAlike_exec (by simp [h.gag]) (by simp [h.pag]) (by simp) (ofCommand_actual_eq _ _ x) h.sameProtocol
    (fun _ => ?_) fun _ hvalid _ o => ?_
  · rw [Instr.ofCommand_addr]
    exact ⟨by rw [h.index, h.pht], h.afterPredict⟩
  · rw [Instr.ofCommand_addr]
    exact h.afterUpdate hvalid o

/-- The two instances agree at construction: no history, no entry, nothing pending. -/
theorem resetOf {cg cp : Config} (hg : cg.variant = .GAg) (hshift : cg.gagHistMode = .shiftOutcome)
    (hp : cp.variant = .PAg) (hn : cg.n = cp.n) (hb : cg.b = cp.b) (hw : cg.w = cp.w) (a : Bits) :
    OneAddressPair a (State.resetOf cg 0) (State.resetOf cp 0) where
  gag := hg
  shifts := hshift
  pag := hp
  n := hn
  b := hb
  w := hw
  history := congrArg zeros hb
  pht _ := congrArg zeros hw
  scValid := rfl
  scAddr := (resetOf_sameProtocol hn 0).scAddr
  sc hvalid := by simp at hvalid

end OneAddressPair

/-- Settles O55: the relation of the two instances is kept by every command on the one address, and holds at
construction. -/
theorem pAgWithOneAddressIsGAgWithShift : Obligations.PAgWithOneAddressIsGAgWithShift := by
  refine ⟨fun a x g p h hx => h.answerAlike hx, ?_⟩
  intro cg cp a cmds _ _ hg hshift hp hn hb hw ha hcmds hlegal
  have hrun := legalRun_alike (c := cg) (d := cp) (R := OneAddressPair a) (cmds := cmds)
    (fun x hx _ _ _ _ h => by simpa only [hg, hp] using h.answerAlike (hcmds x hx))
    (.resetOf hg hshift hp hn hb hw a) (fun x hx => by rw [hcmds x hx, ha]) (by rwa [hg])
  rw [hg, hp] at hrun
  obtain ⟨g, p, hgrun, hprun, h, hresponses⟩ := hrun
  exact ⟨g, p, hgrun, hprun, hresponses, h.history, h.pht, h.scValid, h.sc⟩

/-! ## Set ids that are addresses (R112(a)) -/

/-- For K at least N no two N-bit addresses are in one set (R64). -/
theorem hashK_inj {k : Nat} (ha : a.length ≤ k) (hlen : a.length = b.length) : hashK k a = hashK k b ↔ a = b := by
  rw [hashK_of_length_le ha, hashK_of_length_le (hlen ▸ ha), hlen]
  exact List.append_left_inj _

/-- Two keys of the table agree exactly when their address parts and what follows them agree (R101). -/
theorem keyPart_append_inj {c : Config} {h h' : Bits} (ha : a.length = c.n) (hb : b.length = c.n) :
    keyPart c a ++ h = keyPart c b ++ h' ↔ keyPart c a = keyPart c b ∧ h = h' := by
  have hlen : (keyPart c a).length = (keyPart c b).length :=
    Nat.add_right_cancel ((keyPart_length _ _ ha).trans (keyPart_length _ _ hb).symm)
  exact ⟨fun hkeys => List.append_inj hkeys hlen, fun ⟨hpart, hrest⟩ => congrArg₂ List.append hpart hrest⟩

namespace RekeyedPair

theorem sameProtocol (h : RekeyedPair s u) : SameProtocol s u := ⟨h.n, h.scValid, h.scAddr⟩

/-- The one variant has the per-set bank, the other the per-address bank. -/
theorem banks (h : RekeyedPair s u) : s.cfg.variant.hasPsbhr = true ∧ u.cfg.variant.hasPabhr = true := by
  obtain ⟨hs, hu⟩ | ⟨hs, hu⟩ | ⟨hs, hu⟩ := h.variants <;> simp [hs, hu, Variant.hasPsbhr, Variant.hasPabhr]

/-- The registers that serve an address agree. -/
theorem hr (h : RekeyedPair s u) (ha : a.length = s.cfg.n) : s.hr a = u.hr a := by
  have hbank := h.bank a ha
  obtain ⟨hs, hu⟩ | ⟨hs, hu⟩ | ⟨hs, hu⟩ := h.variants <;> simpa [State.hr, hs, hu] using hbank

/-- The re-keying is injective: it takes different keys of the table to different keys. -/
theorem keyPart_eq_iff (h : RekeyedPair s u) (ha : a.length = s.cfg.n) (hb : b.length = s.cfg.n) :
    keyPart s.cfg a = keyPart s.cfg b ↔ keyPart u.cfg a = keyPart u.cfg b := by
  have hinj : hashK s.cfg.k a = hashK s.cfg.k b ↔ a = b := hashK_inj (ha ▸ h.k) (ha.trans hb.symm)
  obtain ⟨hs, hu⟩ | ⟨hs, hu⟩ | ⟨hs, hu⟩ := h.variants <;> simp [keyPart, hs, hu, hinj]

/-- A key of the table is the index of an address on the one side exactly when its re-keying is on the other. -/
theorem eq_index_iff (h : RekeyedPair s u) (ha : a.length = s.cfg.n) (hb : b.length = s.cfg.n) (r : Bits) :
    keyPart s.cfg a ++ r = s.index b ↔ keyPart u.cfg a ++ r = u.index b := by
  rw [State.index, State.index, keyPart_append_inj ha hb, keyPart_append_inj (ha.trans h.n) (hb.trans h.n),
    h.keyPart_eq_iff ha hb, h.hr hb]

/-- The blocks at the indices of an address agree. -/
theorem phtT_index (h : RekeyedPair s u) (ha : a.length = s.cfg.n) : s.phtT (s.index a) = u.phtT (u.index a) := by
  rw [State.index, State.index, ← h.hr ha]
  exact h.pht a _ ha

theorem afterPredict (h : RekeyedPair s u) (ha : a.length = s.cfg.n) :
    RekeyedPair (s.afterPredict a) (u.afterPredict a) where
  variants := by simpa using h.variants
  n := by simp [h.n]
  b := by simp [h.b]
  w := by simp [h.w]
  k := by simpa using h.k
  bank c hc := by simpa using h.bank c (by simpa using hc)
  pht c r hc := by simpa using h.pht c r (by simpa using hc)
  scValid := by simp
  scAddr := by simp
  sc _ := by simp [h.phtT_index ha]

/-- A matching `update` shifts into the registers of one address, and writes one count under keys that the re-keying
takes to each other. -/
theorem afterUpdate (h : RekeyedPair s u) (ha : a.length = s.cfg.n) (hvalid : s.scValid = true) (o : BranchResult) :
    RekeyedPair (s.afterUpdate a o) (u.afterUpdate a o) where
  variants := by simpa using h.variants
  n := by simp [h.n]
  b := by simp [h.b]
  w := by simp [h.w]
  k := by simpa using h.k
  bank c hc := by
    rw [afterUpdate_cfg] at hc ⊢
    have hinj : hashK s.cfg.k c = hashK s.cfg.k a ↔ c = a := hashK_inj (hc ▸ h.k) (hc.trans ha.symm)
    simp [afterUpdate_psbhrT, afterUpdate_pabhrT, h.banks, hinj, h.bank a ha, h.bank c hc]
  pht c r hc := by
    rw [afterUpdate_cfg] at hc
    simp only [afterUpdate_cfg, afterUpdate_phtT, h.eq_index_iff hc ha, h.sc hvalid, h.pht c r hc]
  scValid := by simp
  scAddr := by simp [h.scAddr]
  sc hstill := by simp at hstill

/-- Every command is answered alike: it finds one history, one block and one pending prediction under the re-keying. -/
theorem answerAlike (h : RekeyedPair s u) (x : Command) :
    AnswerAlike RekeyedPair s u
      (exec (Instr.ofCommand s.cfg.variant x) s) (exec (Instr.ofCommand u.cfg.variant x) u) := by
  refine answerAlike_exec (by simp) (by simp) (by simp) (ofCommand_actual_eq _ _ x) h.sameProtocol
    (fun ha => ?_) fun ha hvalid _ o => ?_
  · exact ⟨by simpa using h.phtT_index ha, by simpa using h.afterPredict ha⟩
  · simpa using h.afterUpdate ha hvalid o

/-- The two instances agree at construction: no history, no entry, nothing pending. -/
theorem resetOf {cs cp : Config} (hvariants : setAndAddressVariants cs.variant cp.variant) (hn : cs.n = cp.n)
    (hb : cs.b = cp.b) (hw : cs.w = cp.w) (hk : cs.n ≤ cs.k) :
    RekeyedPair (State.resetOf cs 0) (State.resetOf cp 0) where
  variants := hvariants
  n := hn
  b := hb
  w := hw
  k := hk
  bank _ _ := congrArg zeros hb
  pht _ _ _ := congrArg zeros hw
  scValid := rfl
  scAddr := (resetOf_sameProtocol hn 0).scAddr
  sc hvalid := by simp at hvalid

end RekeyedPair

/-- Settles O56: the re-keying of the two instances is kept by every command, and holds at construction. -/
theorem wideFoldMakesSetsAddresses : Obligations.WideFoldMakesSetsAddresses := by
  refine ⟨fun x s u h => h.answerAlike x, ?_⟩
  intro cs cp cmds _ _ hvariants hn hb hw hk hcmds hlegal
  obtain ⟨t, u, ht, hu, -, hresponses⟩ := legalRun_alike (c := cs) (d := cp) (R := RekeyedPair)
    (fun x _ s u hs hu h => by simpa only [hs, hu] using h.answerAlike x)
    (.resetOf hvariants hn hb hw hk) hcmds hlegal
  exact ⟨t, u, ht, hu, hresponses⟩

end Sys2Proof.Machine

/-!
SUPPORT. The address fold over the bitwise XOR (40_combinational.md section 2, 90_conflicts.md C3), and the statement
O6.
-/

namespace Sys2Proof.Machine

variable {a b v w : Bits}

/-! ## One position -/

/-- Two XORs at two positions may be exchanged. -/
theorem xorAt_comm (v : Bits) (i j : Nat) (x y : Bool) : xorAt (xorAt v i x) j y = xorAt (xorAt v j y) i x := by
  induction v generalizing i j with
  | nil => rfl
  | cons z v ih =>
    cases i with
    | zero =>
      cases j with
      | zero => exact congrArg (· :: v) (Bool.xor_right_comm z x y)
      | succ j => rfl
    | succ i =>
      cases j with
      | zero => rfl
      | succ j => exact congrArg (z :: ·) (ih i j)

/-- Two XORs at one position are one. -/
theorem xorAt_xorAt (v : Bits) (j : Nat) (x y : Bool) : xorAt (xorAt v j x) j y = xorAt v j (Bool.xor x y) := by
  induction v generalizing j with
  | nil => rfl
  | cons z v ih => cases j <;> simp [xorAt, ih]

/-- The XOR at one position distributes over the bitwise XOR. -/
theorem xorAt_zipWith (v w : Bits) (j : Nat) (x y : Bool) :
    xorAt (List.zipWith Bool.xor v w) j (Bool.xor x y) = List.zipWith Bool.xor (xorAt v j x) (xorAt w j y) := by
  induction v generalizing w j with
  | nil => rfl
  | cons p v ih =>
    cases w with
    | nil => cases j <;> rfl
    | cons q w =>
      cases j with
      | zero => simp [xorAt, Bool.xor_left_comm]
      | succ j => simp [xorAt, ih]

/-- Two vectors of one width differ nowhere exactly when they are equal. -/
theorem zipWith_xor_eq_zeros_iff (h : v.length = w.length) :
    List.zipWith Bool.xor v w = zeros v.length ↔ v = w := by
  induction v generalizing w with
  | nil =>
    cases w with
    | nil => exact ⟨fun _ => rfl, fun _ => rfl⟩
    | cons => cases h
  | cons p v ih =>
    cases w with
    | nil => cases h
    | cons q w => simpa [zeros, List.replicate_succ] using fun _ => ih (by simpa using h)

/-! ## The loop -/

/-- The loop is linear in its input and its start value together. -/
theorem hashLoop_zipWith (k i : Nat) (h : a.length = b.length) (v w : Bits) :
    hashLoop k i (List.zipWith Bool.xor a b) (List.zipWith Bool.xor v w) =
      List.zipWith Bool.xor (hashLoop k i a v) (hashLoop k i b w) := by
  induction a generalizing b i v w with
  | nil =>
    cases b with
    | nil => rfl
    | cons => cases h
  | cons x a ih =>
    cases b with
    | nil => cases h
    | cons y b => rw [List.zipWith_cons_cons, hashLoop, xorAt_zipWith, ih _ (by simpa using h), hashLoop, hashLoop]

/-- A bit XORed into the start value is XORed into the result. -/
theorem hashLoop_xorAt (k i : Nat) (a out : Bits) (j : Nat) (t : Bool) :
    hashLoop k i a (xorAt out j t) = xorAt (hashLoop k i a out) j t := by
  induction a generalizing i out with
  | nil => rfl
  | cons b a ih => rw [hashLoop, hashLoop, xorAt_comm, ih]

/-- Flipping one bit of the input flips the position it is folded into, counted from where the loop was entered. -/
theorem hashLoop_flip (k m : Nat) (out : Bits) {i : Nat} (hi : i < a.length) :
    hashLoop k m (xorAt a i true) out = xorAt (hashLoop k m a out) ((m + i) % k) true := by
  induction a generalizing m i out with
  | nil => cases hi
  | cons b a ih =>
    cases i with
    | zero => rw [xorAt, hashLoop, hashLoop, ← xorAt_xorAt, hashLoop_xorAt, Nat.add_zero m]
    | succ i =>
      rw [xorAt, hashLoop, hashLoop, ih _ _ (by simpa using hi), Nat.add_assoc, Nat.add_comm 1]

/-! ## The fold -/

/-- The fold is linear over XOR (R88). -/
theorem hashK_zipWith (k : Nat) (h : a.length = b.length) :
    hashK k (List.zipWith Bool.xor a b) = List.zipWith Bool.xor (hashK k a) (hashK k b) := by
  have hstart : List.zipWith Bool.xor (zeros k) (zeros k) = zeros k := by simpa using zipWith_xor_zeros (zeros k)
  calc hashK k (List.zipWith Bool.xor a b)
      = hashLoop k 0 (List.zipWith Bool.xor a b) (List.zipWith Bool.xor (zeros k) (zeros k)) := by rw [hstart, hashK]
    _ = List.zipWith Bool.xor (hashK k a) (hashK k b) := hashLoop_zipWith k 0 h _ _

/-- Settles O6: the loop is linear, and passes a flipped bit on to one position. -/
theorem hashIsLinearAndBitSensitive : Obligations.HashIsLinearAndBitSensitive := by
  intro k a b _ hlen
  refine ⟨hashK_zipWith k hlen, hashLoop_zeros k 0 _ _, fun i hi => ?_, ?_⟩
  · rw [hashK, hashK, hashLoop_flip k 0 _ hi, Nat.zero_add]
  · have hiff := zipWith_xor_eq_zeros_iff ((hashK_length k a).trans (hashK_length k b).symm)
    rw [hashK_zipWith k hlen, ← hiff, hashK_length]

end Sys2Proof.Machine

/-!
SUPPORT. What the decoder answers to the words it accepts, encoded again; and the statements O11 and O14
(30_encoding.md sections 2 and 3).
-/

namespace Sys2Proof

@[simp] theorem BranchResult.bit_of (b : Bool) : (BranchResult.of b).bit = b := by cases b <;> rfl

end Sys2Proof

namespace Sys2Proof.Machine

/-- What the decoder reads is of the instance's variant, with an N-bit address (R73, R70). -/
theorem wf_of_decode {c : Config} {w : Bits} {i : Instr} (h : decode c w = .ok i) : i.wf c = true := by
  obtain ⟨p, q, a, -, hn, rfl⟩ := decode_ok_iff.mp h
  exact Instr.wf_iff.mpr ⟨Instr.ofCommand_variant, by rwa [Instr.ofCommand_addr]⟩

/-- Settles O11: the word is two header bits and an address, of which `predict` forgets the second bit. -/
theorem decodedWordsAreWellFormedAndReencode : Obligations.DecodedWordsAreWellFormedAndReencode := by
  intro c w i h
  have hwf := wf_of_decode h
  refine ⟨hwf, (Instr.wf_iff.mp hwf).1, ?_⟩
  obtain ⟨p, q, a, rfl, hn, rfl⟩ := decode_ok_iff.mp h
  cases p with
  | false =>
    refine ⟨fun hop => by simp [Op.ofBit] at hop, fun _ => ⟨q, ?_, ?_, ?_⟩⟩
    · rw [Instr.ofCommand_addr]
    · rw [encode_eq, Instr.ofCommand_op, Op.bit_ofBit, Op.ofBit, Instr.ofCommand_predict_actual, Option.elim_none]
    · rw [Instr.ofCommand_addr]
      exact decode_ok_iff.mpr ⟨false, !q, a, rfl, hn, by cases c.variant <;> rfl⟩
  | true =>
    refine ⟨fun _ => ?_, fun hop => by simp [Op.ofBit] at hop⟩
    rw [encode_eq, Instr.ofCommand_op, Op.bit_ofBit, Op.ofBit, Instr.ofCommand_update_actual, Instr.ofCommand_addr,
      Option.elim_some, BranchResult.bit_of]

/-- Settles O14: each word is one run of the decoder. -/
theorem sampleWordsDecode : Obligations.SampleWordsDecode := ⟨rfl, rfl, rfl, rfl, rfl, rfl⟩

end Sys2Proof.Machine

/-!
SUPPORT. Construction with a mode that the block does not have (60_exceptions.md R152, R156), and the statement O20.
-/

namespace Sys2Proof.Machine

variable {c : Config}

/-- Construction reports a mode exactly when the mode check, which comes first, finds it (R156). -/
theorem construct_unsupportedMode_iff {m : Mode} :
    construct c = .refused (.unsupportedMode m) ↔ unsupported c = some m := by
  unfold construct refuse
  cases unsupported c <;> cases failedClause c <;> simp

theorem unsupported_of_countMode (h : c.countMode ≠ .saturating) : unsupported c = some (.count c.countMode) :=
  if_pos h

theorem unsupported_of_hashMode (hcount : c.countMode = .saturating) (hhash : c.hashMode ≠ .xor) :
    unsupported c = some (.hash c.hashMode) :=
  (if_neg (not_not.mpr hcount)).trans (if_pos hhash)

/-- Settles O20: what the mode check finds is reported, and on the two supported modes it finds nothing. -/
theorem unsupportedModesAreRefusedFirst : Obligations.UnsupportedModesAreRefusedFirst := by
  refine fun c => ⟨fun h => ?_, fun hcount hhash => ?_, fun hcount hhash m h => ?_⟩
  · exact construct_unsupportedMode_iff.mpr (unsupported_of_countMode h)
  · exact construct_unsupportedMode_iff.mpr (unsupported_of_hashMode hcount hhash)
  · rw [construct_unsupportedMode_iff, unsupported_eq_none_iff.mpr ⟨hcount, hhash⟩] at h
    cases h

end Sys2Proof.Machine

/-!
SUPPORT. A run of `predict`s and the `update` after it (41_indexing.md section 4, R109), and the statement O44.
-/

namespace Sys2Proof.Machine

variable {s t u : State} {i : Instr} {is : List Instr} {a : Bits}

/-- What `predict`s from `s` leave as it was: every index and every block, in the total view (R109, R123). -/
structure SameIndices (s t : State) : Prop where
  index : ∀ a, t.index a = s.index a
  pht : ∀ k, t.phtT k = s.phtT k

/-- `SC` is the block that `s` holds at the index of the pending address. -/
def LoadedFrom (s t : State) : Prop := t.sc = s.phtT (s.index t.scAddr)

theorem SameIndices.afterPredict (h : SameIndices s t) (a : Bits) : SameIndices s (t.afterPredict a) where
  index b := by rw [afterPredict_index, h.index]
  pht k := by rw [afterPredict_phtT, h.pht]

/-- A `predict` loads the block from where `s` already had it. -/
theorem SameIndices.loadedFrom_afterPredict (h : SameIndices s t) (a : Bits) : LoadedFrom s (t.afterPredict a) := by
  rw [LoadedFrom, afterPredict_sc, afterPredict_scAddr, h.index, h.pht]

/-- An accepted run of `predict`s moves no index and changes no block. -/
theorem execAll_predicts_sameIndices (hp : ∀ i ∈ is, i.op = .predict) (h : execAll is u = .next t)
    (hu : SameIndices s u) : SameIndices s t := by
  refine execAll_keeps (fun i hi v w hexec hv => ?_) h hu
  rw [exec_predict_next (hp i hi) hexec]
  exact hv.afterPredict _

/-- After an accepted run of at least one `predict`, `SC` is the block that the first state holds at the index of the
pending address. -/
theorem execAll_predicts_loadedFrom (hp : ∀ i ∈ is, i.op = .predict) (hne : is ≠ [])
    (h : execAll is s = .next t) : LoadedFrom s t := by
  cases is with
  | nil => exact absurd rfl hne
  | cons i is =>
    obtain ⟨hi, his⟩ := List.forall_mem_cons.mp hp
    obtain ⟨u, hu, hrest⟩ := execAll_cons_next h
    have hstart : SameIndices s s := ⟨fun _ => rfl, fun _ => rfl⟩
    obtain rfl := exec_predict_next hi hu
    have hkept : SameIndices s t ∧ LoadedFrom s t := by
      refine execAll_keeps (P := fun v => SameIndices s v ∧ LoadedFrom s v) (fun j hj v w hexec ⟨hsame, _⟩ => ?_)
        hrest ⟨hstart.afterPredict _, hstart.loadedFrom_afterPredict _⟩
      rw [exec_predict_next (his j hj) hexec]
      exact ⟨hsame.afterPredict _, hsame.loadedFrom_afterPredict _⟩
    exact hkept.2

/-- Settles O44: the `update` writes at the index its address has after the `predict`s, which is the one it had before
them, and it is accepted only for the address whose block is in `SC`. -/
theorem indexAtUpdateIsTheIndexAtPredict : Obligations.IndexAtUpdateIsTheIndexAtPredict := by
  intro is s t hp h
  have hsame := execAll_predicts_sameIndices hp h (s := s) ⟨fun _ => rfl, fun _ => rfl⟩
  refine ⟨hsame.index, fun i o v ho hexec => ⟨?_, fun hne => ?_⟩⟩
  · rw [exec_update_next ho hexec, ← hsame.index]
    exact (afterUpdate_writes t i.addr o).entry
  · obtain ⟨-, haddr⟩ := exec_update_matches ho hexec
    rw [← haddr]
    exact execAll_predicts_loadedFrom hp hne h

end Sys2Proof.Machine

/-!
SUPPORT. One step by the kind of the driver's next input (70_reset_and_hazards.md section 1), what follows a refusal
(60_exceptions.md section 1), and the statements O15, O16, O17, O47 and O49.
-/

namespace Sys2Proof.Machine

variable {s : State} {rest : List Input} {w a : Bits} {i : Instr} {cause : Refusal}

/-! ## The step, input by input -/

/-- The block executes nothing on its own (R167). -/
theorem step_of_no_input (h : s.input = []) : step s = .next s := by simp only [step, h]

theorem step_reset (h : s.input = .reset :: rest) : step s = .next s.dropInput.resetInput := by simp only [step, h]

/-- A command word that decodes is executed (R67). -/
theorem step_command (h : s.input = .command w :: rest) (hd : decode s.cfg w = .ok i) :
    step s = exec i s.dropInput := by simp only [step, h, hd]

/-- A command word that does not decode is refused with the decoder's report. -/
theorem step_command_error {e : DecodeError} (h : s.input = .command w :: rest) (hd : decode s.cfg w = .error e) :
    step s = .refused (ofDecodeError e) := by simp only [step, h, hd, refuse]

/-- The input taken off the channel is its first. -/
theorem dropInput_eq {x : Input} (h : s.input = x :: rest) : s.dropInput = { s with input := rest } := by
  rw [State.dropInput, h, List.tail_cons]

/-- Settles O15: the step on a command word, with the channel written out. -/
theorem stepRunsTheDecodedCommand : Obligations.StepRunsTheDecodedCommand := by
  intro s w rest i hin hd
  rw [step_command hin hd, dropInput_eq hin]

/-- Settles O16: the step on an empty channel. -/
theorem stepWithoutInputLeavesTheState : Obligations.StepWithoutInputLeavesTheState :=
  fun _ => step_of_no_input

/-- Settles O17: the reset input is taken off the channel, and the rest of the two channels stays. -/
theorem resetInputRestoresConstruction : Obligations.ResetInputRestoresConstruction := by
  intro s rest hin
  refine ⟨_, step_reset hin, rfl, ?_⟩
  rw [dropInput_eq hin]
  rfl

/-! ## Refusals -/

/-- The decoder reports an address field of another width than N (R150). -/
theorem decode_addrWidth {c : Config} (p q : Bool) (h : a.length ≠ c.n) :
    decode c (p :: q :: a) = .error (.addrWidth a.length) := if_neg h

/-- A step refuses a word with an address field of another width than N (R150). -/
theorem step_addrWidth {p q : Bool} (hin : s.input = .command (p :: q :: a) :: rest) (h : a.length ≠ s.cfg.n) :
    step s = .refused (.operandWidth a.length) := step_command_error hin (decode_addrWidth p q h)

/-- Settles O47: the width is checked before the match, and the decoder lets no other width through. -/
theorem operandWidthIsRefusedBeforeAnyStep : Obligations.OperandWidthIsRefusedBeforeAnyStep := by
  refine ⟨fun i s hv hn => ?_, fun s rest p q a hin hn => step_addrWidth hin hn, fun c w i hd => ?_⟩
  · exact exec_refused_iff.mpr (.inr (.inl ⟨hv.symm, hn, rfl⟩))
  · exact (Instr.wf_iff.mp (wf_of_decode hd)).2

/-- Across a refusal the block goes on in `afterRefusal` (R158). -/
theorem serve_of_refused (h : step s = .refused cause) : serve s = s.afterRefusal cause := by simp only [serve, h]

/-- An ill-formed configuration gives no instance (R149, R152). -/
theorem construct_refused_of_not_wf {c : Config} (h : ¬c.wf) : ∃ cause, construct c = .refused cause := by
  cases hc : construct c with
  | next t => exact absurd (construct_next_iff_wf.mp ⟨t, hc⟩) h
  | fault f => exact nomatch f
  | refused cause => exact ⟨cause, rfl⟩

/-- Settles O49: the driver gets the cause, and nothing but its channels changes; and three commands that are so
refused. -/
theorem refusedCommandChangesNoElement : Obligations.RefusedCommandChangesNoElement := by
  refine ⟨fun s cause h => ?_, fun s w rest i hin hd hop hmatch => ?_,
    fun s rest p q a hin hn => step_addrWidth hin hn, fun c => construct_refused_of_not_wf⟩
  · rw [serve_of_refused h]
    exact ⟨afterRefusal_sameElements s cause, rfl, rfl⟩
  · obtain ⟨hv, hn⟩ := Instr.wf_iff.mp (wf_of_decode hd)
    rw [step_command hin hd]
    exact exec_refused_iff.mpr (.inr (.inr ⟨hv.symm, hn, hop, hmatch, rfl⟩))

end Sys2Proof.Machine
